-- ==== Sys2Proof/Word.lean ====
section
/-! DEFINITION. The words of the SPNT block and the forms in which they stand at its ports
(spec/30_encoding.md R80, R81, R84, R86, R88). -/

namespace Sys2Proof

/-- A 32-bit register word or binary32 pattern (R10, R11). -/
abbrev Word := BitVec 32

/-- One byte of a MIDI message (R86). -/
abbrev Byte := BitVec 8

/-- The direction of a host transaction; a write carries 32 bits of data (R61). -/
inductive Access where
  | read
  | write (d : Word)
deriving DecidableEq, Repr

/-- One HB transaction: the 11-bit header {SZ, W, A} and the data lines beside it (R81).
Only a write reads the data lines (log 13). -/
structure HostWord where
  header : BitVec 11
  data : Word
deriving DecidableEq, Repr

/-- The EVENT operations. They carry no bits: each is known by its name (R88). -/
inductive EventOp where
  | trackStep
  | sinkAccept
  | sinkError
  | reset
deriving DecidableEq, Repr

/-- What stands at a port of the block, one constructor per format that carries an operation (R80).
The fifth format, PITCH, is internal (R85). -/
inductive PortWord where
  | host (h : HostWord)
  | spectrum (m : Word)
  | midi (wd : BitVec 24)
  | event (e : EventOp)
deriving DecidableEq, Repr

/-- The named registers of the host register map (spec/10_state.md R23). -/
inductive Reg where
  | ctrl
  | status
  | threshold
  | sampleRate
  | log2n
  | binIndex
  | pitchFreq
  | pitchAmp
  | pitchBin
  | injFreq
  | injAmp
  | trkState
  | trkAmp
  | faultMsg
  | caps
deriving DecidableEq, Repr

end Sys2Proof
end

