-- ==== Sys2Proof/Syntax.lean ====
section
/-! DEFINITION. The operations of the block: one constructor per row of spec/opcode_table.json, in the
table's order. An operand is what the row leaves free: for a header row the bits outside its mask, for a
write its 32 bits of data. -/

namespace Sys2Proof

/-- The operations (spec/30_encoding.md R80). `half` is bit 0 of SZ in the rows with SZ[1] = 0, `acc` the
direction, `a` the byte address, `d` the data of a write, `i` the word index of a reserved address (R36):
0x40 + 4·i or 0x80 + 4·i. -/
inductive Instr where
  | buserrSzNarrow (half : Bool) (acc : Access) (a : BitVec 8)
  | buserrSzRsvd (acc : Access) (a : BitVec 8)
  | buserrAlign0 (acc : Access) (a : BitVec 8)
  | buserrAlign1 (acc : Access) (a : BitVec 8)
  | rdCtrl
  | ctrlSrst (d : Word)
  | ctrlInject (d : Word)
  | ctrlNop (d : Word)
  | rdStatus
  | wrStatus (d : Word)
  | rdThreshold
  | wrThreshold (d : Word)
  | rdSampleRate
  | wrSampleRate (d : Word)
  | rdLog2n
  | wrLog2n (d : Word)
  | rdBinIndex
  | wrBinIndex (d : Word)
  | rdPitchFreq
  | rdPitchAmp
  | rdPitchBin
  | wrPitchFreq (d : Word)
  | wrPitchAmp (d : Word)
  | wrPitchBin (d : Word)
  | rdInjFreq
  | wrInjFreq (d : Word)
  | rdInjAmp
  | wrInjAmp (d : Word)
  | rdTrkState
  | wrTrkState (d : Word)
  | rdTrkAmp
  | wrTrkAmp (d : Word)
  | rdFaultMsg
  | wrFaultMsg (d : Word)
  | rdCaps
  | wrCaps (d : Word)
  | rdRsvd3C
  | rdRsvd40To7F (i : BitVec 4)
  | rdRsvd80ToFF (i : BitVec 5)
  | wrRsvd3C (d : Word)
  | wrRsvd40To7F (i : BitVec 4) (d : Word)
  | wrRsvd80ToFF (i : BitVec 5) (d : Word)
  | sinBeat (m : Word)
  | noteOn (n : BitVec 7)
  | noteOff (n : BitVec 7)
  | trackStep
  | sinkAccept
  | sinkError
  | reset
deriving DecidableEq, Repr

end Sys2Proof
end

