-- ==== Sys2Proof/WellFormed.lean ====
section
/-! DEFINITION. Which operand values a row of the opcode table admits. Rows are matched first to last
(spec/30_encoding.md R82), so a row's operands exclude what an earlier row takes. -/

namespace Sys2Proof

/-- The operand checks: the misaligned rows have the address bits of their row (R82 item 1), and the three
CTRL rows have the data bits of theirs (R82, `data_mask` and `data_match` of the table). Every other
operand value is legal. -/
def Instr.wellFormed : Instr → Bool
  | .buserrAlign0 _ a => a.getLsbD 0
  | .buserrAlign1 _ a => a.getLsbD 1 && !a.getLsbD 0
  | .ctrlSrst d => d.getLsbD 0
  | .ctrlInject d => d.getLsbD 1 && !d.getLsbD 0
  | .ctrlNop d => !d.getLsbD 1 && !d.getLsbD 0
  | .buserrSzNarrow _ _ _ | .buserrSzRsvd _ _ => true
  | .rdCtrl | .rdStatus | .wrStatus _ | .rdThreshold | .wrThreshold _ | .rdSampleRate | .wrSampleRate _
  | .rdLog2n | .wrLog2n _ | .rdBinIndex | .wrBinIndex _ | .rdPitchFreq | .rdPitchAmp | .rdPitchBin
  | .wrPitchFreq _ | .wrPitchAmp _ | .wrPitchBin _ | .rdInjFreq | .wrInjFreq _ | .rdInjAmp | .wrInjAmp _
  | .rdTrkState | .wrTrkState _ | .rdTrkAmp | .wrTrkAmp _ | .rdFaultMsg | .wrFaultMsg _ | .rdCaps
  | .wrCaps _ => true
  | .rdRsvd3C | .rdRsvd40To7F _ | .rdRsvd80ToFF _ | .wrRsvd3C _ | .wrRsvd40To7F _ _
  | .wrRsvd80ToFF _ _ => true
  | .sinBeat _ | .noteOn _ | .noteOff _ | .trackStep | .sinkAccept | .sinkError | .reset => true

end Sys2Proof
end

