-- ==== Sys2Proof/Decode.lean ====
section
/-! DEFINITION. Decoding and encoding (spec/30_encoding.md R80 to R88). A header is decoded by the first
row of the opcode table it matches (R82); the rows below stand in the table's order. -/

namespace Sys2Proof

/-- Why a port word is rejected. -/
inductive DecodeError where
  /-- The word matches no row of the opcode table: a MIDI3 word other than NOTE_ON and NOTE_OFF (R89).
  No header does this, the HB rows being total (R82). -/
  | noRow
deriving DecidableEq, Repr

/-- The direction and data of a header: W is bit 8 (R81). -/
def accessOf (h : BitVec 11) (d : Word) : Access :=
  if h.getLsbD 8 then .write d else .read

/-- The byte address A of a header (R81). -/
def addressOf (h : BitVec 11) : BitVec 8 := h.extractLsb' 0 8

/-- One HB row of the opcode table: `mask` and `pattern` (its "match") on the header, `dataMask` and
`dataMatch` on the data, and the operation it names. -/
structure HbRow where
  mask : BitVec 11
  pattern : BitVec 11
  dataMask : Word
  dataMatch : Word
  build : BitVec 11 → Word → Instr

/-- A row of one register and direction: mask 0x7FF, no test of the data (R82 item 2). -/
def exactRow (pattern : BitVec 11) (build : Word → Instr) : HbRow :=
  ⟨0x7FF, pattern, 0, 0, fun _ d => build d⟩

/-- The four BUSERR rows (R82 item 1). -/
def busErrRows : List HbRow := [
  ⟨0x400, 0x000, 0, 0, fun h d => .buserrSzNarrow (h.getLsbD 9) (accessOf h d) (addressOf h)⟩,
  ⟨0x600, 0x600, 0, 0, fun h d => .buserrSzRsvd (accessOf h d) (addressOf h)⟩,
  ⟨0x001, 0x001, 0, 0, fun h d => .buserrAlign0 (accessOf h d) (addressOf h)⟩,
  ⟨0x002, 0x002, 0, 0, fun h d => .buserrAlign1 (accessOf h d) (addressOf h)⟩]

/-- CTRL and STATUS; a CTRL write is split by its data (R82, R104). -/
def controlRows : List HbRow := [
  exactRow 0x400 fun _ => .rdCtrl,
  ⟨0x7FF, 0x500, 0x00000001, 0x00000001, fun _ d => .ctrlSrst d⟩,
  ⟨0x7FF, 0x500, 0x00000003, 0x00000002, fun _ d => .ctrlInject d⟩,
  ⟨0x7FF, 0x500, 0x00000003, 0x00000000, fun _ d => .ctrlNop d⟩,
  exactRow 0x404 fun _ => .rdStatus,
  exactRow 0x504 fun d => .wrStatus d]

/-- THRESHOLD to BIN_INDEX. -/
def configRows : List HbRow := [
  exactRow 0x408 fun _ => .rdThreshold,
  exactRow 0x508 fun d => .wrThreshold d,
  exactRow 0x40C fun _ => .rdSampleRate,
  exactRow 0x50C fun d => .wrSampleRate d,
  exactRow 0x410 fun _ => .rdLog2n,
  exactRow 0x510 fun d => .wrLog2n d,
  exactRow 0x414 fun _ => .rdBinIndex,
  exactRow 0x514 fun d => .wrBinIndex d]

/-- PITCH_FREQ to INJ_AMP. -/
def pitchRows : List HbRow := [
  exactRow 0x418 fun _ => .rdPitchFreq,
  exactRow 0x41C fun _ => .rdPitchAmp,
  exactRow 0x420 fun _ => .rdPitchBin,
  exactRow 0x518 fun d => .wrPitchFreq d,
  exactRow 0x51C fun d => .wrPitchAmp d,
  exactRow 0x520 fun d => .wrPitchBin d,
  exactRow 0x424 fun _ => .rdInjFreq,
  exactRow 0x524 fun d => .wrInjFreq d,
  exactRow 0x428 fun _ => .rdInjAmp,
  exactRow 0x528 fun d => .wrInjAmp d]

/-- TRK_STATE to CAPS. -/
def trackerRows : List HbRow := [
  exactRow 0x42C fun _ => .rdTrkState,
  exactRow 0x52C fun d => .wrTrkState d,
  exactRow 0x430 fun _ => .rdTrkAmp,
  exactRow 0x530 fun d => .wrTrkAmp d,
  exactRow 0x434 fun _ => .rdFaultMsg,
  exactRow 0x534 fun d => .wrFaultMsg d,
  exactRow 0x438 fun _ => .rdCaps,
  exactRow 0x538 fun d => .wrCaps d]

/-- The reserved addresses 0x3C, 0x40 to 0x7F and 0x80 to 0xFF (R82 item 3). -/
def reservedRows : List HbRow := [
  exactRow 0x43C fun _ => .rdRsvd3C,
  ⟨0x7C0, 0x440, 0, 0, fun h _ => .rdRsvd40To7F (h.extractLsb' 2 4)⟩,
  ⟨0x780, 0x480, 0, 0, fun h _ => .rdRsvd80ToFF (h.extractLsb' 2 5)⟩,
  exactRow 0x53C fun d => .wrRsvd3C d,
  ⟨0x7C0, 0x540, 0, 0, fun h d => .wrRsvd40To7F (h.extractLsb' 2 4) d⟩,
  ⟨0x780, 0x580, 0, 0, fun h d => .wrRsvd80ToFF (h.extractLsb' 2 5) d⟩]

/-- The HB rows of the opcode table, in its order (R82). -/
def hbRows : List HbRow :=
  busErrRows ++ controlRows ++ configRows ++ pitchRows ++ trackerRows ++ reservedRows

/-- `(H & mask) = match` and, for the CTRL rows, `(D & data_mask) = data_match` (R82). -/
def HbRow.hits (r : HbRow) (h : HostWord) : Bool :=
  h.header &&& r.mask == r.pattern && h.data &&& r.dataMask == r.dataMatch

/-- The operation the first matching row names (R82). -/
def decodeHost (h : HostWord) : Option Instr :=
  (hbRows.find? fun r => r.hits h).map fun r => r.build h.header h.data

/-- The note field n of a MIDI3 message, bits 14:8 (R86). -/
def noteField (wd : BitVec 24) : BitVec 7 := wd.extractLsb' 8 7

/-- The two MIDI3 rows (R86). -/
def decodeMidi (wd : BitVec 24) : Option Instr :=
  if wd &&& 0xFF80FF == 0x900064 then some (.noteOn (noteField wd))
  else if wd &&& 0xFF80FF == 0x800064 then some (.noteOff (noteField wd))
  else none

/-- The EVENT rows (R88). -/
def decodeEvent : EventOp → Instr
  | .trackStep => .trackStep
  | .sinkAccept => .sinkAccept
  | .sinkError => .sinkError
  | .reset => .reset

/-- The operation a port word names, or the name of its rejection. -/
def decode : PortWord → Except DecodeError Instr
  | .host h => match decodeHost h with
    | some i => .ok i
    | none => .error .noRow
  | .spectrum m => .ok (.sinBeat m)
  | .midi wd => match decodeMidi wd with
    | some i => .ok i
    | none => .error .noRow
  | .event e => .ok (decodeEvent e)

/-! ## Encoding -/

/-- The header {SZ, W, A} and the data of a transaction (R81); a read's data lines are 0. -/
def hostWord (sz : BitVec 2) (acc : Access) (a : BitVec 8) : PortWord :=
  match acc with
  | .read => .host ⟨sz ++ 0#1 ++ a, 0⟩
  | .write d => .host ⟨sz ++ 1#1 ++ a, d⟩

/-- An aligned 32-bit read: H = 0x400 | A (R81). -/
def readWord (a : BitVec 8) : PortWord := hostWord 0b10 .read a

/-- An aligned 32-bit write: H = 0x500 | A (R81). -/
def writeWord (a : BitVec 8) (d : Word) : PortWord := hostWord 0b10 (.write d) a

/-- The wire word of a message from its status byte and note (R86, R182, R183). -/
def midiWord (status : Byte) (n : BitVec 7) : BitVec 24 := status ++ (0#1 ++ n) ++ 0x64#8

/-- The port word of an operation, written from the encodings of R81, R84, R86, R88. -/
def encode : Instr → PortWord
  | .buserrSzNarrow half acc a => hostWord (if half then 0b01 else 0b00) acc a
  | .buserrSzRsvd acc a => hostWord 0b11 acc a
  | .buserrAlign0 acc a => hostWord 0b10 acc a
  | .buserrAlign1 acc a => hostWord 0b10 acc a
  | .rdCtrl => readWord 0x00
  | .ctrlSrst d => writeWord 0x00 d
  | .ctrlInject d => writeWord 0x00 d
  | .ctrlNop d => writeWord 0x00 d
  | .rdStatus => readWord 0x04
  | .wrStatus d => writeWord 0x04 d
  | .rdThreshold => readWord 0x08
  | .wrThreshold d => writeWord 0x08 d
  | .rdSampleRate => readWord 0x0C
  | .wrSampleRate d => writeWord 0x0C d
  | .rdLog2n => readWord 0x10
  | .wrLog2n d => writeWord 0x10 d
  | .rdBinIndex => readWord 0x14
  | .wrBinIndex d => writeWord 0x14 d
  | .rdPitchFreq => readWord 0x18
  | .rdPitchAmp => readWord 0x1C
  | .rdPitchBin => readWord 0x20
  | .wrPitchFreq d => writeWord 0x18 d
  | .wrPitchAmp d => writeWord 0x1C d
  | .wrPitchBin d => writeWord 0x20 d
  | .rdInjFreq => readWord 0x24
  | .wrInjFreq d => writeWord 0x24 d
  | .rdInjAmp => readWord 0x28
  | .wrInjAmp d => writeWord 0x28 d
  | .rdTrkState => readWord 0x2C
  | .wrTrkState d => writeWord 0x2C d
  | .rdTrkAmp => readWord 0x30
  | .wrTrkAmp d => writeWord 0x30 d
  | .rdFaultMsg => readWord 0x34
  | .wrFaultMsg d => writeWord 0x34 d
  | .rdCaps => readWord 0x38
  | .wrCaps d => writeWord 0x38 d
  | .rdRsvd3C => readWord 0x3C
  | .rdRsvd40To7F i => readWord (0b01#2 ++ i ++ 0b00#2)
  | .rdRsvd80ToFF i => readWord (0b1#1 ++ i ++ 0b00#2)
  | .wrRsvd3C d => writeWord 0x3C d
  | .wrRsvd40To7F i d => writeWord (0b01#2 ++ i ++ 0b00#2) d
  | .wrRsvd80ToFF i d => writeWord (0b1#1 ++ i ++ 0b00#2) d
  | .sinBeat m => .spectrum m
  | .noteOn n => .midi (midiWord 0x90 n)
  | .noteOff n => .midi (midiWord 0x80 n)
  | .trackStep => .event .trackStep
  | .sinkAccept => .event .sinkAccept
  | .sinkError => .event .sinkError
  | .reset => .event .reset

/-! ## Words as the opcode table numbers them -/

/-- The event a number names. The EVENT rows have no bits (R88), so the number is the model's own: the
row's place among the EVENT rows (DESIGN CHOICE, log 8). -/
def eventOfNumber : Nat → Option EventOp
  | 0 => some .trackStep
  | 1 => some .sinkAccept
  | 2 => some .sinkError
  | 3 => some .reset
  | _ => none

/-- The port word whose bits are `w`, the format told by how many bytes the table gives the row (R80): no
bits an EVENT, up to 16 an HB header (11 bits, its data word then 0), 24 a MIDI3 message, 32 a spectrum
beat, 48 a header with its data word from bit 16 (log 8). -/
def portWordOfTable (nbits w : Nat) : Option PortWord :=
  if nbits = 0 then (eventOfNumber w).map .event
  else if nbits ≤ 16 then
    if w < 2 ^ 11 then some (.host ⟨BitVec.ofNat 11 w, 0⟩) else none
  else if nbits ≤ 24 then
    if w < 2 ^ 24 then some (.midi (BitVec.ofNat 24 w)) else none
  else if nbits ≤ 32 then
    if w < 2 ^ 32 then some (.spectrum (BitVec.ofNat 32 w)) else none
  else if nbits ≤ 48 then
    if w % 2 ^ 16 < 2 ^ 11 && w < 2 ^ 48 then
      some (.host ⟨BitVec.ofNat 11 (w % 2 ^ 16), BitVec.ofNat 32 (w / 2 ^ 16)⟩)
    else none
  else none

/-- The operation this decoder reads from an operation whose bits are `w`. -/
def decodeTableWord (nbits w : Nat) : Option Instr :=
  (portWordOfTable nbits w).bind fun p => (decode p).toOption

end Sys2Proof
end

