-- ==== Sys2Proof/Config.lean ====
section
/-! DEFINITION. The implementation parameters (spec/00_scope.md R5, R20 of spec/10_state.md). The spec
leaves both open; the model carries them in State as a constant that no event writes (log 5). -/

namespace Sys2Proof

/-- LOG2N_MAX and FIFO_DEPTH (R5), visible in the CAPS register (R34). -/
structure Params where
  log2nMax : Nat
  fifoDepth : Nat
deriving DecidableEq, Repr

/-- The legal values of the parameters (R5). -/
def Params.legal (p : Params) : Bool :=
  13 ≤ p.log2nMax && p.log2nMax ≤ 16 && 1 ≤ p.fifoDepth && p.fifoDepth ≤ 255

/-- The parameters at State.reset. DESIGN CHOICE, unsafe: R5 leaves them open; these are the values
spec/95_test_vectors.md uses "unless a vector says otherwise" (log 5). -/
def Config.params : Params := { log2nMax := 13, fifoDepth := 4 }

end Sys2Proof
end

