-- ==== Sys2Proof/Machine/Constants.lean ====
section
/-! DEFINITION. The fixed constants of the block (spec/00_scope.md R6) and the hard-reset values of its
configuration (spec/10_state.md R43). -/

namespace Sys2Proof.Machine

/-- DEAD_LEVEL: 0.01 as binary32 (R6). -/
def deadLevel : Word := 0x3C23D70A

/-- +0.0 (R11). -/
def plusZero : Word := 0x00000000

/-- NOTE_ON_STATUS, channel 0 (R6). -/
def noteOnStatus : Byte := 0x90

/-- NOTE_OFF_STATUS, channel 0 (R6). -/
def noteOffStatus : Byte := 0x80

/-- VELOCITY, for NoteOn and NoteOff (R6). -/
def velocity : Byte := 0x64

/-- LOG2N_MIN (R6). -/
def log2nMin : Nat := 1

/-- CAUSE 1, MIDI_SEND_ERROR (R200). -/
def causeMidiSendError : BitVec 3 := 1

/-- Reset THRESHOLD, 250.0 (R6, R43). -/
def resetThreshold : Word := 0x437A0000

/-- Reset SAMPLE_RATE (R6, R43). -/
def resetSampleRate : Word := 48000

/-- Reset LOG2N, N = 8192 (R6, R43). -/
def resetLog2n : BitVec 5 := 13

end Sys2Proof.Machine
end

