-- ==== Sys2Proof/Machine/Binary32.lean ====
section
/-! DEFINITION. The binary32 primitives of spec/00_scope.md R11 and the bin-to-hertz conversion of
spec/41_peak_picker.md R147. A finite value is held exactly, as an integer number of 2^-149, the spacing of
the subnormals, so that every comparison and every claim of exactness is one about integers (log 10). -/

namespace Sys2Proof.Machine

/-- What a pattern stands for: NaN, an infinity, or `units` · 2^-149. Both zeros are `finite 0`. -/
inductive Value where
  | nan
  | infinite (negative : Bool)
  | finite (units : Int)
deriving DecidableEq, Repr

/-- The exponent field, bits 30:23. -/
def exponentField (b : Word) : Nat := (b.extractLsb' 23 8).toNat

/-- The fraction field, bits 22:0. -/
def fractionField (b : Word) : Nat := (b.extractLsb' 0 23).toNat

/-- |F(b)| of a finite pattern in units of 2^-149, from its exponent and fraction fields. -/
def magnitudeUnits (e f : Nat) : Nat :=
  if e = 0 then f else (2 ^ 23 + f) * 2 ^ (e - 1)

/-- `F(b)`, the value of pattern b (R11). -/
def F (b : Word) : Value :=
  if exponentField b = 255 then
    if fractionField b = 0 then .infinite b.msb else .nan
  else
    let m : Int := magnitudeUnits (exponentField b) (fractionField b)
    .finite (if b.msb then -m else m)

/-- x < y as IEEE orders values: false with a NaN. -/
def Value.lt : Value → Value → Bool
  | .finite x, .finite y => x < y
  | .finite _, .infinite n => !n
  | .infinite n, .finite _ => n
  | .infinite n, .infinite m => n && !m
  | .nan, _ => false
  | _, .nan => false

/-- x ≤ y as IEEE orders values: false with a NaN. -/
def Value.le : Value → Value → Bool
  | .finite x, .finite y => x ≤ y
  | .finite _, .infinite n => !n
  | .infinite n, .finite _ => n
  | .infinite n, .infinite m => n || !m
  | .nan, _ => false
  | _, .nan => false

/-- `gt(a, b)`: the ordered comparison a > b (R11). -/
def gt (a b : Word) : Bool := (F b).lt (F a)

/-- `ge(a, b)`: the ordered comparison a >= b (R11). -/
def ge (a b : Word) : Bool := (F b).le (F a)

/-- `le(a, b)`: the ordered comparison a <= b (R11). -/
def le (a b : Word) : Bool := (F a).le (F b)

/-- q rounded up when the dropped part r of `half` · 2 is above half, or is half and q is odd: to nearest,
ties to the even significand (R11). -/
def roundedQuotient (q r half : Nat) : Nat :=
  if half < r ∨ (r = half ∧ q % 2 = 1) then q + 1 else q

/-- `rne32(x)` (R11): the pattern nearest the integer x, ties to the even significand, exact below 2^24.
A significand that rounds up to 2^24 carries into the exponent. Used for x < 2^47 only (R147, log 11). -/
def rne32 (x : Nat) : Word :=
  if x = 0 then plusZero
  else
    let e := Nat.log2 x
    let significand :=
      if e ≤ 23 then x * 2 ^ (23 - e)
      else roundedQuotient (x / 2 ^ (e - 23)) (x % 2 ^ (e - 23)) (2 ^ (e - 24))
    BitVec.ofNat 32 ((e + 127) * 2 ^ 23 + (significand - 2 ^ 23))

/-- `scale(b, -L)` (R11): the pattern of F(b) · 2^-L where that is exact, by lowering the exponent field;
zero stays zero. Used for b = +0.0 or F(b) ≥ 1.0 only (R147, log 11). -/
def scaleDown (b : Word) (l : Nat) : Word :=
  if b = plusZero then plusZero else b - BitVec.ofNat 32 (l * 2 ^ 23)

/-- `binfreq(k, R, L) = scale(rne32(k·R), -L)` with the exact integer product (R147). -/
def binfreq (k : BitVec 16) (rate : Word) (l : BitVec 5) : Word :=
  scaleDown (rne32 (k.toNat * rate.toNat)) l.toNat

end Sys2Proof.Machine
end

