-- ==== Sys2Proof/Machine/Notes.lean ====
section
/-! DEFINITION. The note boundaries T_1 to T_127 and the note number (spec/42_note_tracker.md R173), and the
dead test (R171). -/

namespace Sys2Proof.Machine

/-- T_1 to T_12 of the table of R173. -/
def noteBounds0 : List Word := [
  0x4106A55A, 0x410EA701, 0x41172289, 0x41201F32, 0x4129A4A9, 0x4133BB10,
  0x413E6B05, 0x4149BDAB, 0x4155BCAE, 0x4162724E, 0x416FE966, 0x417E2D77]

/-- T_13 to T_24 of the table of R173. -/
def noteBounds1 : List Word := [
  0x4186A55A, 0x418EA701, 0x41972289, 0x41A01F32, 0x41A9A4A9, 0x41B3BB10,
  0x41BE6B05, 0x41C9BDAB, 0x41D5BCAE, 0x41E2724E, 0x41EFE966, 0x41FE2D77]

/-- T_25 to T_36 of the table of R173. -/
def noteBounds2 : List Word := [
  0x4206A55A, 0x420EA701, 0x42172289, 0x42201F32, 0x4229A4A9, 0x4233BB10,
  0x423E6B05, 0x4249BDAB, 0x4255BCAE, 0x4262724E, 0x426FE966, 0x427E2D77]

/-- T_37 to T_48 of the table of R173. -/
def noteBounds3 : List Word := [
  0x4286A55A, 0x428EA701, 0x42972289, 0x42A01F32, 0x42A9A4A9, 0x42B3BB10,
  0x42BE6B05, 0x42C9BDAB, 0x42D5BCAE, 0x42E2724E, 0x42EFE966, 0x42FE2D77]

/-- T_49 to T_60 of the table of R173. -/
def noteBounds4 : List Word := [
  0x4306A55A, 0x430EA701, 0x43172289, 0x43201F32, 0x4329A4A9, 0x4333BB10,
  0x433E6B05, 0x4349BDAB, 0x4355BCAE, 0x4362724E, 0x436FE966, 0x437E2D77]

/-- T_61 to T_72 of the table of R173. -/
def noteBounds5 : List Word := [
  0x4386A55A, 0x438EA701, 0x43972289, 0x43A01F32, 0x43A9A4A9, 0x43B3BB10,
  0x43BE6B05, 0x43C9BDAB, 0x43D5BCAE, 0x43E2724E, 0x43EFE966, 0x43FE2D77]

/-- T_73 to T_84 of the table of R173. -/
def noteBounds6 : List Word := [
  0x4406A55A, 0x440EA701, 0x44172289, 0x44201F32, 0x4429A4A9, 0x4433BB10,
  0x443E6B05, 0x4449BDAB, 0x4455BCAE, 0x4462724E, 0x446FE966, 0x447E2D77]

/-- T_85 to T_96 of the table of R173. -/
def noteBounds7 : List Word := [
  0x4486A55A, 0x448EA701, 0x44972289, 0x44A01F32, 0x44A9A4A9, 0x44B3BB10,
  0x44BE6B05, 0x44C9BDAB, 0x44D5BCAE, 0x44E2724E, 0x44EFE966, 0x44FE2D77]

/-- T_97 to T_108 of the table of R173. -/
def noteBounds8 : List Word := [
  0x4506A55A, 0x450EA701, 0x45172289, 0x45201F32, 0x4529A4A9, 0x4533BB10,
  0x453E6B05, 0x4549BDAB, 0x4555BCAE, 0x4562724E, 0x456FE966, 0x457E2D77]

/-- T_109 to T_120 of the table of R173. -/
def noteBounds9 : List Word := [
  0x4586A55A, 0x458EA701, 0x45972289, 0x45A01F32, 0x45A9A4A9, 0x45B3BB10,
  0x45BE6B05, 0x45C9BDAB, 0x45D5BCAE, 0x45E2724E, 0x45EFE966, 0x45FE2D77]

/-- T_121 to T_127 of the table of R173. -/
def noteBounds10 : List Word := [
  0x4606A55A, 0x460EA701, 0x46172289, 0x46201F32, 0x4629A4A9, 0x4633BB10,
  0x463E6B05]

/-- T_1 to T_127 (R173). -/
def noteBounds : List Word :=
  noteBounds0 ++ noteBounds1 ++ noteBounds2 ++ noteBounds3 ++
  noteBounds4 ++ noteBounds5 ++ noteBounds6 ++ noteBounds7 ++
  noteBounds8 ++ noteBounds9 ++ noteBounds10

/-- `note(freq) = #{ j in 1..127 : ge(freq, T_j) }` (R173); the clamp of R174 is in the count. -/
def note (freq : Word) : BitVec 7 :=
  BitVec.ofNat 7 (noteBounds.countP fun t => ge freq t)

/-- `dead(p)` of a Pitch (freq, amp) (R171): a NaN in either field is dead. -/
def dead (freq amp : Word) : Bool := !ge amp deadLevel || !gt freq plusZero

/-- `live(p)` (R171). -/
def live (freq amp : Word) : Bool := !dead freq amp

end Sys2Proof.Machine
end

