-- ==== Sys2Proof/Machine/State.lean ====
section
/-! DEFINITION. The state of the block, field by field (spec/10_state.md R20, R37 to R41), and of the world
at its ports. -/

namespace Sys2Proof.Machine

/-- A Pitch record: two binary32 patterns (spec/10_state.md R38, spec/30_encoding.md R85). -/
structure Pitch where
  freq : Word
  amp : Word
deriving DecidableEq, Repr

/-- A MIDI message: three bytes, sent in this order (spec/20_memory.md R64, spec/30_encoding.md R86). -/
structure Midi where
  statusByte : Byte
  noteByte : Byte
  velocityByte : Byte
deriving DecidableEq, Repr

/-- The tracker's state (R39): `Idle`, or `Playing(n, a)` with the onset amplitude's pattern. -/
inductive Trk where
  | idle
  | playing (n : BitVec 7) (a : Word)
deriving DecidableEq, Repr

/-- The block's own state (R20): the configuration behind the registers (R26 to R28, R32), the PICKER
(R37), the Pitch FIFO, head first (R38), the tracker (R39), the output queue, head first (R40), the fault
and sticky state (R41), and the parameters, which no event writes (R5, log 5). -/
structure Block where
  params : Params
  cfgThr : Word
  cfgRate : Word
  cfgLog2n : BitVec 5
  injFreq : Word
  injAmp : Word
  bin : BitVec 16
  latThr : Word
  latRate : Word
  latLog2n : BitVec 5
  bestMag : Word
  bestBin : BitVec 16
  lastFreq : Word
  lastAmp : Word
  lastBin : BitVec 16
  lastDead : Bool
  pvalid : Bool
  fifo : List Pitch
  trk : Trk
  outq : List Midi
  fault : Bool
  cause : BitVec 3
  faultMsg : BitVec 24
  injDrop : Bool
deriving DecidableEq, Repr

/-- The response of the host bus (spec/20_memory.md R61). -/
inductive Resp where
  | okay
  | buserr
deriving DecidableEq, Repr

/-- What HOST gets back: a read's data and response, or a write's response (R61). -/
inductive BusResult where
  | read (data : Word) (resp : Resp)
  | write (resp : Resp)
deriving DecidableEq, Repr

/-- Whose turn it is (spec/00_scope.md R7). TRK's step, SINK's answers and the reset input carry no bits
(R88) and are named by the turn itself; `host` and `spectrum` take the agent's next word; `message` is SINK
taking the message with this wire word from the MIDI output port (log 7). -/
inductive Turn where
  | host
  | spectrum
  | message (wd : BitVec 24)
  | event (e : EventOp)
deriving DecidableEq, Repr

/-- The world at the ports: the MIDI trace (R9, R184), what HOST has read (R9, log 6), whose turns come next
(R8, log 1) and what HOST and SRC have still to give (log 3). -/
structure World where
  trace : List Midi
  responses : List BusResult
  turns : List Turn
  hostIn : List HostWord
  srcIn : List Word
deriving DecidableEq, Repr

/-- The whole state: plain data. -/
structure State where
  block : Block
  world : World
deriving DecidableEq, Repr

/-- Why the machine stops. The block's own fault, MIDI_SEND_ERROR, is no stop: it is a next state with
STATUS.FAULT = 1 (spec/60_exceptions.md R201, R202). -/
inductive Fault where
  /-- Raised by step when the word of a `message` turn is neither NOTE_ON nor NOTE_OFF: the block never
  emits such a message and it fits no row of the opcode table (spec/30_encoding.md R86, R89, log 14).
  Safe. -/
  | noRow
deriving DecidableEq, Repr

/-- Why an operation has no meaning. -/
inductive Refusal where
  /-- Raised by an arm of exec whose meaning is not written. No arm does. Safe. -/
  | notModelled (mnemonic : String)
deriving DecidableEq, Repr

/-- Every field of the block at its hard-reset value (R43), under the given parameters. -/
def Block.reset (p : Params) : Block where
  params := p
  cfgThr := resetThreshold
  cfgRate := resetSampleRate
  cfgLog2n := resetLog2n
  injFreq := 0
  injAmp := 0
  bin := 0
  latThr := resetThreshold
  latRate := resetSampleRate
  latLog2n := resetLog2n
  bestMag := 0
  bestBin := 0
  lastFreq := 0
  lastAmp := 0
  lastBin := 0
  lastDead := false
  pvalid := false
  fifo := []
  trk := .idle
  outq := []
  fault := false
  cause := 0
  faultMsg := 0
  injDrop := false

/-- A world in which nothing has happened and nobody has anything to do yet (log 2, log 6). -/
def World.start : World where
  trace := []
  responses := []
  turns := []
  hostIn := []
  srcIn := []

/-- The machine right after the first Reset, where every run begins (spec/70_reset_and_hazards.md R231). -/
def State.reset : State where
  block := Block.reset Config.params
  world := World.start

end Sys2Proof.Machine
end

