-- ==== Sys2Proof/Machine/Ops.lean ====
section
/-! DEFINITION. The named operations over the block's state: the Pitch FIFO, the formatter, the two resets,
the one fault, and the answers of the host bus. -/

namespace Sys2Proof.Machine

/-! ## The Pitch FIFO (spec/10_state.md R38) -/

/-- `push(FIFO, p)`, at the tail (R12, R38). -/
def Block.push (b : Block) (p : Pitch) : Block := { b with fifo := b.fifo ++ [p] }

/-- `len(FIFO) = FIFO_DEPTH` (R25). -/
def Block.fifoFull (b : Block) : Bool := b.fifo.length == b.params.fifoDepth

/-! ## MIDI messages (spec/30_encoding.md R86) -/

/-- A note number in a MIDI byte: zext_8(n) (spec/30_encoding.md R83). -/
def noteToByte (n : BitVec 7) : Byte := n.setWidth 8

/-- NOTE_ON(n) (spec/42_note_tracker.md R182). -/
def noteOnMsg (n : BitVec 7) : Midi := ⟨noteOnStatus, noteToByte n, velocity⟩

/-- NOTE_OFF(n) (spec/42_note_tracker.md R183). -/
def noteOffMsg (n : BitVec 7) : Midi := ⟨noteOffStatus, noteToByte n, velocity⟩

/-- The wire word Wd = byte0·2^16 + byte1·2^8 + byte2 (R86). -/
def Midi.wireWord (m : Midi) : BitVec 24 := m.statusByte ++ m.noteByte ++ m.velocityByte

/-- `emit(msg)`: append to the end of outq (R12). -/
def Block.emit (b : Block) (m : Midi) : Block := { b with outq := b.outq ++ [m] }

/-- The message offered on the MIDI output port: the head of outq (R40, R184). -/
def Block.offered (b : Block) : Option Midi := b.outq.head?

/-! ## Pitch records (spec/30_encoding.md R85) -/

/-- The 64-bit record: freq in bits 31:0, amp in bits 63:32 (R85). -/
def Pitch.record (p : Pitch) : BitVec 64 := p.amp ++ p.freq

/-- The Pitch of a 64-bit record (R85). -/
def Pitch.ofRecord (r : BitVec 64) : Pitch := ⟨r.extractLsb' 0 32, r.extractLsb' 32 32⟩

/-- `dead(p)` (R171). -/
def Pitch.dead (p : Pitch) : Bool := Sys2Proof.Machine.dead p.freq p.amp

/-! ## The fault and the ways out of it -/

/-- `raise MidiSendError(msg)`, the only fault (spec/60_exceptions.md R201): fault, cause and the refused
message are recorded, outq is emptied undelivered, everything else stays. There is no handler and no
vector (R208). -/
def Block.raiseMidiSendError (b : Block) (m : Midi) : Block :=
  { b with fault := true, cause := causeMidiSendError, faultMsg := m.wireWord, outq := [] }

/-- `Reset`: every field takes its hard-reset value (R43, spec/70_reset_and_hazards.md R230). -/
def Block.hardReset (b : Block) : Block := Block.reset b.params

/-- `SoftReset()`: as the hard reset, but the configuration and the injection registers keep their values
and the latched copies equal the configuration (R43, spec/70_reset_and_hazards.md R232). -/
def Block.softReset (b : Block) : Block :=
  { Block.reset b.params with
    cfgThr := b.cfgThr, cfgRate := b.cfgRate, cfgLog2n := b.cfgLog2n
    injFreq := b.injFreq, injAmp := b.injAmp
    latThr := b.cfgThr, latRate := b.cfgRate, latLog2n := b.cfgLog2n }

/-! ## The ports -/

/-- The state with another block. -/
def State.withBlock (s : State) (b : Block) : State := { s with block := b }

/-- HOST gets a result (R61); the model records it (log 6). -/
def State.respond (s : State) (r : BusResult) : State :=
  { s with world := { s.world with responses := s.world.responses ++ [r] } }

/-- SINK takes a message: it joins the trace (R184). -/
def State.deliver (s : State) (m : Midi) : State :=
  { s with world := { s.world with trace := s.world.trace ++ [m] } }

/-- A read answers its data with OKAY and changes no state of the block (spec/20_memory.md R65, R100). -/
def finishRead (s : State) (data : Word) : Host.Outcome State Fault Refusal :=
  .next (s.respond (.read data .okay))

/-- A write leaves the block `b` and answers OKAY (R101). -/
def finishWrite (s : State) (b : Block) : Host.Outcome State Fault Refusal :=
  .next ((s.withBlock b).respond (.write .okay))

/-- What a misaligned or not 32-bit transaction answers: BUSERR, and a read's data is 0 (R62, R102). -/
def busErrResult : Access → BusResult
  | .read => .read 0 .buserr
  | .write _ => .write .buserr

/-- BUSERR: the answer, and no other effect (spec/20_memory.md R62, R102, R203). -/
def finishBusErr (s : State) (acc : Access) : Host.Outcome State Fault Refusal :=
  .next (s.respond (busErrResult acc))

/-- An event that is not enabled has no step: its agent waits, and nothing changes (R8, log 4). -/
def agentWaits (s : State) : Host.Outcome State Fault Refusal := .next s

end Sys2Proof.Machine
end

