-- ==== Sys2Proof/Machine/Flags.lean ====
section
/-! DEFINITION. The STATUS flags (spec/10_state.md R25, R42), the `fault` output (R44) and the conditions
under which each agent's event is enabled (spec/00_scope.md R8). -/

namespace Sys2Proof.Machine

/-! ## STATUS (R25) -/

/-- FIFO_EMPTY, bit 2. -/
def Block.fifoEmptyFlag (b : Block) : Bool := b.fifo.isEmpty

/-- PLAYING, bit 4. -/
def Block.playingFlag (b : Block) : Bool :=
  match b.trk with
  | .idle => false
  | .playing _ _ => true

/-- TRK_BUSY, bit 5. -/
def Block.trkBusyFlag (b : Block) : Bool := !b.outq.isEmpty

/-- FRAME_ACTIVE, bit 6. -/
def Block.frameActiveFlag (b : Block) : Bool := b.bin != 0

/-- FIFO_COUNT, bits 23:16. -/
def Block.fifoCount (b : Block) : BitVec 8 := BitVec.ofNat 8 b.fifo.length

/-- Bits 7:0 of STATUS (R25), PVALID first. -/
def Block.statusFlags (b : Block) : BitVec 8 :=
  BitVec.ofBool b.pvalid ++ BitVec.ofBool b.frameActiveFlag ++ BitVec.ofBool b.trkBusyFlag ++
  BitVec.ofBool b.playingFlag ++ BitVec.ofBool b.fifoFull ++ BitVec.ofBool b.fifoEmptyFlag ++
  BitVec.ofBool b.injDrop ++ BitVec.ofBool b.fault

/-- The STATUS register (R25, R108). -/
def Block.statusWord (b : Block) : Word :=
  0#8 ++ b.fifoCount ++ 0#5 ++ b.cause ++ b.statusFlags

/-- The level of the `fault` output: STATUS.FAULT (R44, spec/60_exceptions.md R206). -/
def State.faultOutput (s : State) : Bool := s.block.fault

/-! ## When an event is enabled -/

/-- The frame size in force, N = 2^lat_log2n (spec/41_peak_picker.md R142). -/
def Block.frameSize (b : Block) : Nat := 2 ^ b.latLog2n.toNat

/-- `Beat` (spec/41_peak_picker.md R150): not halted, and not the last beat of a frame with the FIFO full. -/
def Block.beatEnabled (b : Block) : Bool :=
  !b.fault && !(b.bin != 0 && b.bin.toNat == b.frameSize - 1 && b.fifoFull)

/-- `TrackStep` (spec/42_note_tracker.md R176). -/
def Block.trackStepEnabled (b : Block) : Bool :=
  !b.fault && b.outq.isEmpty && !b.fifo.isEmpty

/-- `SinkAccept` and `SinkError` (spec/42_note_tracker.md R184, R185). -/
def Block.sinkEnabled (b : Block) : Bool := !b.fault && !b.outq.isEmpty

/-- The message m crosses the MIDI output port: SINK may accept, and m is the message offered there, the
head of outq (R40, R184, log 7). -/
def Block.messageEnabled (b : Block) (m : Midi) : Bool := b.sinkEnabled && b.offered == some m

end Sys2Proof.Machine
end

