-- ==== Sys2Proof/Machine/Agents.lean ====
section
/-! DEFINITION. The agents (spec/00_scope.md R7, R8): whose turn it is, what the agent gives, whether its
event is enabled, and how an event is put before the others. -/

namespace Sys2Proof.Machine

/-- Whether an operation's event is enabled (R8): a host access and Reset always (R100, R101, R230), a beat
by R150, the tracker's step by R176, SINK's answers by R184 and R185, a message on the MIDI output port when
it is the one offered (R40, log 7). -/
def eventEnabled (i : Instr) (b : Block) : Bool :=
  match i with
  | .sinBeat _ => b.beatEnabled
  | .trackStep => b.trackStepEnabled
  | .sinkAccept | .sinkError => b.sinkEnabled
  | .noteOn n => b.messageEnabled (noteOnMsg n)
  | .noteOff n => b.messageEnabled (noteOffMsg n)
  | .reset => true
  | .buserrSzNarrow _ _ _ | .buserrSzRsvd _ _ | .buserrAlign0 _ _ | .buserrAlign1 _ _ => true
  | .rdCtrl | .ctrlSrst _ | .ctrlInject _ | .ctrlNop _ | .rdStatus | .wrStatus _ => true
  | .rdThreshold | .wrThreshold _ | .rdSampleRate | .wrSampleRate _ | .rdLog2n | .wrLog2n _ => true
  | .rdBinIndex | .wrBinIndex _ | .rdPitchFreq | .rdPitchAmp | .rdPitchBin => true
  | .wrPitchFreq _ | .wrPitchAmp _ | .wrPitchBin _ => true
  | .rdInjFreq | .wrInjFreq _ | .rdInjAmp | .wrInjAmp _ => true
  | .rdTrkState | .wrTrkState _ | .rdTrkAmp | .wrTrkAmp _ => true
  | .rdFaultMsg | .wrFaultMsg _ | .rdCaps | .wrCaps _ => true
  | .rdRsvd3C | .rdRsvd40To7F _ | .rdRsvd80ToFF _ => true
  | .wrRsvd3C _ | .wrRsvd40To7F _ _ | .wrRsvd80ToFF _ _ => true

/-- The turn goes by; what its agent had to give stays with the agent (R150: "the beat is not lost"). -/
def State.passTurn (s : State) : State :=
  { s with world := { s.world with turns := s.world.turns.tail } }

/-- The word the agent whose turn it is gives, and the state with the word taken and the turn used; none
when no turn is listed or the agent has nothing to give. -/
def State.fetch (s : State) : Option (PortWord × State) :=
  match s.world.turns with
  | [] => none
  | .event e :: _ => some (.event e, s.passTurn)
  | .message wd :: _ => some (.midi wd, s.passTurn)
  | .host :: _ =>
    match s.world.hostIn with
    | [] => none
    | h :: hs => some (.host h, { s.passTurn with world := { s.passTurn.world with hostIn := hs } })
  | .spectrum :: _ =>
    match s.world.srcIn with
    | [] => none
    | m :: ms => some (.spectrum m, { s.passTurn with world := { s.passTurn.world with srcIn := ms } })

/-- The state in which this word is the next thing to happen: it stands first with its agent, and the turn
is that agent's. -/
def State.offer (s : State) (p : PortWord) : State :=
  match p with
  | .event e => { s with world := { s.world with turns := .event e :: s.world.turns } }
  | .host h =>
    { s with world := { s.world with turns := .host :: s.world.turns, hostIn := h :: s.world.hostIn } }
  | .spectrum m =>
    { s with world := { s.world with turns := .spectrum :: s.world.turns, srcIn := m :: s.world.srcIn } }
  | .midi wd => { s with world := { s.world with turns := .message wd :: s.world.turns } }

/-- The operation whose event happens next: the next turn's agent gives a word, the word decodes and its
event is enabled; none when the turn goes by. -/
def State.nextEvent (s : State) : Option Instr :=
  match s.fetch with
  | none => none
  | some (p, _) =>
    match decode p with
    | .ok i => if eventEnabled i s.block then some i else none
    | .error _ => none

end Sys2Proof.Machine
end

