-- ==== Sys2Proof/Machine/Operands.lean ====
section
/-! DEFINITION. The host register map (spec/10_state.md R23): what each register reads as, where it stands,
and the fields a write takes from its data (spec/30_encoding.md R83). -/

namespace Sys2Proof.Machine

/-- TRK_STATE: PLAYING in bit 0, NOTE in bits 14:8 (R33, R128). -/
def Trk.stateWord : Trk → Word
  | .idle => 0
  | .playing n _ => 0#17 ++ n ++ 0#7 ++ 1#1

/-- TRK_AMP: the stored amplitude, 0 when Idle (R33, R130). -/
def Trk.ampWord : Trk → Word
  | .idle => 0
  | .playing _ a => a

/-- PITCH_BIN: DEAD in bit 31, BIN in bits 15:0 (R31, R120). -/
def Block.pitchBinWord (b : Block) : Word := BitVec.ofBool b.lastDead ++ 0#15 ++ b.lastBin

/-- CAPS: FIFO_DEPTH in bits 15:8, LOG2N_MAX in bits 4:0 (R34, R134). -/
def Params.capsWord (p : Params) : Word :=
  0#16 ++ BitVec.ofNat 8 p.fifoDepth ++ 0#3 ++ BitVec.ofNat 5 p.log2nMax

/-- What a read of a register returns (R24 to R35). -/
def Block.readReg (b : Block) : Reg → Word
  | .ctrl => 0
  | .status => b.statusWord
  | .threshold => b.cfgThr
  | .sampleRate => b.cfgRate
  | .log2n => b.cfgLog2n.setWidth 32
  | .binIndex => b.bin.setWidth 32
  | .pitchFreq => b.lastFreq
  | .pitchAmp => b.lastAmp
  | .pitchBin => b.pitchBinWord
  | .injFreq => b.injFreq
  | .injAmp => b.injAmp
  | .trkState => b.trk.stateWord
  | .trkAmp => b.trk.ampWord
  | .faultMsg => b.faultMsg.setWidth 32
  | .caps => Params.capsWord b.params

/-- A reserved address reads 0 (R36, R136). -/
def reservedWord : Word := 0

/-- The register at an aligned byte offset; none at a reserved address (R23, R36). -/
def regAt (a : BitVec 8) : Option Reg :=
  match a.toNat with
  | 0x00 => some .ctrl
  | 0x04 => some .status
  | 0x08 => some .threshold
  | 0x0C => some .sampleRate
  | 0x10 => some .log2n
  | 0x14 => some .binIndex
  | 0x18 => some .pitchFreq
  | 0x1C => some .pitchAmp
  | 0x20 => some .pitchBin
  | 0x24 => some .injFreq
  | 0x28 => some .injAmp
  | 0x2C => some .trkState
  | 0x30 => some .trkAmp
  | 0x34 => some .faultMsg
  | 0x38 => some .caps
  | _ => none

/-- The byte offset of a register (R23). -/
def regOffset : Reg → BitVec 8
  | .ctrl => 0x00
  | .status => 0x04
  | .threshold => 0x08
  | .sampleRate => 0x0C
  | .log2n => 0x10
  | .binIndex => 0x14
  | .pitchFreq => 0x18
  | .pitchAmp => 0x1C
  | .pitchBin => 0x20
  | .injFreq => 0x24
  | .injAmp => 0x28
  | .trkState => 0x2C
  | .trkAmp => 0x30
  | .faultMsg => 0x34
  | .caps => 0x38

/-- `MemRead(addr, 4)` at an aligned address: the whole address space as the block shows it (R12, R60). -/
def Block.memRead (b : Block) (a : BitVec 8) : Word :=
  match regAt a with
  | some r => b.readReg r
  | none => reservedWord

/-- Byte lane i of a word: bits 8i+7 to 8i (spec/20_memory.md R63). -/
def laneByte (w : Word) (i : BitVec 2) : Byte := w.extractLsb' (8 * i.toNat) 8

/-- The byte at address A of the register space: lane A[1:0] of its word (R60, R63). No legal access shows
a byte alone (log 17). -/
def Block.memByte (b : Block) (a : BitVec 8) : Byte :=
  laneByte (b.memRead (a &&& 0xFC)) (a.extractLsb' 0 2)

/-- The LOG2N field of a write, D[4:0] (R28, R115). -/
def log2nField (d : Word) : BitVec 5 := d.extractLsb' 0 5

/-- A LOG2N value that a write stores: 1 .. LOG2N_MAX (R28, R115). -/
def Params.log2nLegal (p : Params) (v : BitVec 5) : Bool :=
  log2nMin ≤ v.toNat && v.toNat ≤ p.log2nMax

end Sys2Proof.Machine
end

