-- ==== Sys2Proof/Machine/HostReads.lean ====
section
/-! DEFINITION. The host transactions that store nothing: bus errors, register reads and reserved reads
(spec/40_host_registers.md R100, R102, R103 to R136). A read changes no state of the block. -/

namespace Sys2Proof.Machine

/-- BUSERR_SZ_NARROW (R102). -/
def execBuserrSzNarrow (_half : Bool) (acc : Access) (_a : BitVec 8) (s : State) :
    Host.Outcome State Fault Refusal := finishBusErr s acc

/-- BUSERR_SZ_RSVD (R102). -/
def execBuserrSzRsvd (acc : Access) (_a : BitVec 8) (s : State) : Host.Outcome State Fault Refusal :=
  finishBusErr s acc

/-- BUSERR_ALIGN0 (R102). -/
def execBuserrAlign0 (acc : Access) (_a : BitVec 8) (s : State) : Host.Outcome State Fault Refusal :=
  finishBusErr s acc

/-- BUSERR_ALIGN1 (R102). -/
def execBuserrAlign1 (acc : Access) (_a : BitVec 8) (s : State) : Host.Outcome State Fault Refusal :=
  finishBusErr s acc

/-- RD_CTRL (R103). -/
def execRdCtrl (s : State) : Host.Outcome State Fault Refusal := finishRead s (s.block.readReg .ctrl)

/-- RD_STATUS (R108). -/
def execRdStatus (s : State) : Host.Outcome State Fault Refusal := finishRead s (s.block.readReg .status)

/-- RD_THRESHOLD (R110). -/
def execRdThreshold (s : State) : Host.Outcome State Fault Refusal :=
  finishRead s (s.block.readReg .threshold)

/-- RD_SAMPLE_RATE (R112). -/
def execRdSampleRate (s : State) : Host.Outcome State Fault Refusal :=
  finishRead s (s.block.readReg .sampleRate)

/-- RD_LOG2N (R114). -/
def execRdLog2n (s : State) : Host.Outcome State Fault Refusal := finishRead s (s.block.readReg .log2n)

/-- RD_BIN_INDEX (R116). -/
def execRdBinIndex (s : State) : Host.Outcome State Fault Refusal :=
  finishRead s (s.block.readReg .binIndex)

/-- RD_PITCH_FREQ (R118). -/
def execRdPitchFreq (s : State) : Host.Outcome State Fault Refusal :=
  finishRead s (s.block.readReg .pitchFreq)

/-- RD_PITCH_AMP (R119). -/
def execRdPitchAmp (s : State) : Host.Outcome State Fault Refusal :=
  finishRead s (s.block.readReg .pitchAmp)

/-- RD_PITCH_BIN (R120). -/
def execRdPitchBin (s : State) : Host.Outcome State Fault Refusal :=
  finishRead s (s.block.readReg .pitchBin)

/-- RD_INJ_FREQ (R124). -/
def execRdInjFreq (s : State) : Host.Outcome State Fault Refusal :=
  finishRead s (s.block.readReg .injFreq)

/-- RD_INJ_AMP (R126). -/
def execRdInjAmp (s : State) : Host.Outcome State Fault Refusal := finishRead s (s.block.readReg .injAmp)

/-- RD_TRK_STATE (R128). -/
def execRdTrkState (s : State) : Host.Outcome State Fault Refusal :=
  finishRead s (s.block.readReg .trkState)

/-- RD_TRK_AMP (R130). -/
def execRdTrkAmp (s : State) : Host.Outcome State Fault Refusal := finishRead s (s.block.readReg .trkAmp)

/-- RD_FAULT_MSG (R132). -/
def execRdFaultMsg (s : State) : Host.Outcome State Fault Refusal :=
  finishRead s (s.block.readReg .faultMsg)

/-- RD_CAPS (R134). -/
def execRdCaps (s : State) : Host.Outcome State Fault Refusal := finishRead s (s.block.readReg .caps)

/-- RD_RSVD_3C (R136). -/
def execRdRsvd3C (s : State) : Host.Outcome State Fault Refusal := finishRead s reservedWord

/-- RD_RSVD_40_7F (R136). -/
def execRdRsvd40To7F (_i : BitVec 4) (s : State) : Host.Outcome State Fault Refusal :=
  finishRead s reservedWord

/-- RD_RSVD_80_FF (R136). -/
def execRdRsvd80ToFF (_i : BitVec 5) (s : State) : Host.Outcome State Fault Refusal :=
  finishRead s reservedWord

end Sys2Proof.Machine
end

