-- ==== Sys2Proof/Machine/HostWrites.lean ====
section
/-! DEFINITION. The host writes (spec/40_host_registers.md R101, R104 to R137). Every one answers OKAY;
only the fields its rule names change. -/

namespace Sys2Proof.Machine

/-- CTRL_SRST: the soft reset, whatever the other bits of D (R105). -/
def execCtrlSrst (_d : Word) (s : State) : Host.Outcome State Fault Refusal :=
  finishWrite s s.block.softReset

/-- The injection: the record is dropped and INJ_DROP set when the block is halted or the FIFO full, else
pushed as written (R106). -/
def Block.inject (b : Block) : Block :=
  if b.fault || b.fifoFull then { b with injDrop := true } else b.push ⟨b.injFreq, b.injAmp⟩

/-- CTRL_INJECT (R106). -/
def execCtrlInject (_d : Word) (s : State) : Host.Outcome State Fault Refusal :=
  finishWrite s s.block.inject

/-- CTRL_NOP (R107). -/
def execCtrlNop (_d : Word) (s : State) : Host.Outcome State Fault Refusal := finishWrite s s.block

/-- WR_STATUS: D[1] = 1 clears INJ_DROP; every other bit is ignored (R109). -/
def execWrStatus (d : Word) (s : State) : Host.Outcome State Fault Refusal :=
  finishWrite s (if d.getLsbD 1 then { s.block with injDrop := false } else s.block)

/-- WR_THRESHOLD: every pattern is stored (R111). -/
def execWrThreshold (d : Word) (s : State) : Host.Outcome State Fault Refusal :=
  finishWrite s { s.block with cfgThr := d }

/-- WR_SAMPLE_RATE (R113). -/
def execWrSampleRate (d : Word) (s : State) : Host.Outcome State Fault Refusal :=
  finishWrite s { s.block with cfgRate := d }

/-- WR_LOG2N: D[4:0] is stored when legal, else the write is ignored (R115). -/
def execWrLog2n (d : Word) (s : State) : Host.Outcome State Fault Refusal :=
  finishWrite s
    (if Params.log2nLegal s.block.params (log2nField d) then { s.block with cfgLog2n := log2nField d }
     else s.block)

/-- WR_BIN_INDEX: ignored (R117). -/
def execWrBinIndex (_d : Word) (s : State) : Host.Outcome State Fault Refusal := finishWrite s s.block

/-- WR_PITCH_FREQ: ignored (R121). -/
def execWrPitchFreq (_d : Word) (s : State) : Host.Outcome State Fault Refusal := finishWrite s s.block

/-- WR_PITCH_AMP: ignored (R122). -/
def execWrPitchAmp (_d : Word) (s : State) : Host.Outcome State Fault Refusal := finishWrite s s.block

/-- WR_PITCH_BIN: ignored (R123). -/
def execWrPitchBin (_d : Word) (s : State) : Host.Outcome State Fault Refusal := finishWrite s s.block

/-- WR_INJ_FREQ: stored, nothing pushed (R125). -/
def execWrInjFreq (d : Word) (s : State) : Host.Outcome State Fault Refusal :=
  finishWrite s { s.block with injFreq := d }

/-- WR_INJ_AMP: stored, nothing pushed (R127). -/
def execWrInjAmp (d : Word) (s : State) : Host.Outcome State Fault Refusal :=
  finishWrite s { s.block with injAmp := d }

/-- WR_TRK_STATE: ignored (R129). -/
def execWrTrkState (_d : Word) (s : State) : Host.Outcome State Fault Refusal := finishWrite s s.block

/-- WR_TRK_AMP: ignored (R131). -/
def execWrTrkAmp (_d : Word) (s : State) : Host.Outcome State Fault Refusal := finishWrite s s.block

/-- WR_FAULT_MSG: ignored (R133). -/
def execWrFaultMsg (_d : Word) (s : State) : Host.Outcome State Fault Refusal := finishWrite s s.block

/-- WR_CAPS: ignored (R135). -/
def execWrCaps (_d : Word) (s : State) : Host.Outcome State Fault Refusal := finishWrite s s.block

/-- WR_RSVD_3C: ignored (R137). -/
def execWrRsvd3C (_d : Word) (s : State) : Host.Outcome State Fault Refusal := finishWrite s s.block

/-- WR_RSVD_40_7F: ignored (R137). -/
def execWrRsvd40To7F (_i : BitVec 4) (_d : Word) (s : State) : Host.Outcome State Fault Refusal :=
  finishWrite s s.block

/-- WR_RSVD_80_FF: ignored (R137). -/
def execWrRsvd80ToFF (_i : BitVec 5) (_d : Word) (s : State) : Host.Outcome State Fault Refusal :=
  finishWrite s s.block

end Sys2Proof.Machine
end

