-- ==== Sys2Proof/Machine/Picker.lean ====
section
/-! DEFINITION. The PICKER: one beat of the spectrum input (spec/41_peak_picker.md R141 to R150). -/

namespace Sys2Proof.Machine

/-- Frame start: at bin 0 the configuration is latched and the running maximum is the placeholder, before
the beat is compared (R143). -/
def Block.frameStart (b : Block) : Block :=
  if b.bin = 0 then
    { b with
      latThr := b.cfgThr, latRate := b.cfgRate, latLog2n := b.cfgLog2n
      bestMag := plusZero, bestBin := 0 }
  else b

/-- Peak candidate: in the lower half of the frame a magnitude strictly above the threshold and strictly
above the running maximum replaces it (R144); in the mirror half nothing is compared (R145). -/
def Block.consider (b : Block) (m : Word) : Block :=
  if b.bin.toNat < b.frameSize / 2 ∧ gt m b.latThr = true ∧ gt m b.bestMag = true then
    { b with bestMag := m, bestBin := b.bin }
  else b

/-- The Pitch of the frame: the selected bin in hertz and its magnitude (R146, R147). -/
def Block.framePitch (b : Block) : Pitch := ⟨binfreq b.bestBin b.latRate b.latLog2n, b.bestMag⟩

/-- Frame end: the Pitch is pushed, the readback updated and the bin counter wraps (R146, R149). -/
def Block.frameEnd (b : Block) : Block :=
  { b.push b.framePitch with
    lastFreq := b.framePitch.freq
    lastAmp := b.framePitch.amp
    lastBin := b.bestBin
    lastDead := b.framePitch.dead
    pvalid := true
    bin := 0 }

/-- After the comparison: the last beat of a frame ends it, another advances the bin counter (R141). -/
def Block.advance (b : Block) : Block :=
  if b.bin.toNat = b.frameSize - 1 then b.frameEnd else { b with bin := b.bin + 1 }

/-- `Beat(m)` as the block takes it (R141). -/
def Block.beat (b : Block) (m : Word) : Block := (b.frameStart.consider m).advance

/-- SIN_BEAT: taken when enabled, else SRC waits with its beat (R141, R150). -/
def execSinBeat (m : Word) (s : State) : Host.Outcome State Fault Refusal :=
  if s.block.beatEnabled then .next (s.withBlock (s.block.beat m)) else agentWaits s

end Sys2Proof.Machine
end

