-- ==== Sys2Proof/Machine/Sink.lean ====
section
/-! DEFINITION. The MIDI sink's answers (spec/42_note_tracker.md R184, R185), the messages on the MIDI output
port (R182, R183) and the hard reset input (spec/70_reset_and_hazards.md R230). R7 names R183 and R184 for the
sink's events, which R184 and R185 define (DEDUCED, log 20). -/

namespace Sys2Proof.Machine

/-- The state after SINK takes the offered message (R184). -/
def State.sinkAccept (s : State) : State :=
  match s.block.outq with
  | [] => s
  | m :: rest => (s.withBlock { s.block with outq := rest }).deliver m

/-- SINK_ACCEPT: taken when enabled, else SINK waits (R184). -/
def execSinkAccept (s : State) : Host.Outcome State Fault Refusal :=
  if s.block.sinkEnabled then .next s.sinkAccept else agentWaits s

/-- The state after SINK refuses the offered message: the fault is taken (R185, R201). -/
def State.sinkError (s : State) : State :=
  match s.block.outq with
  | [] => s
  | m :: _ => s.withBlock (s.block.raiseMidiSendError m)

/-- SINK_ERROR: taken when enabled, else SINK waits (R185). -/
def execSinkError (s : State) : Host.Outcome State Fault Refusal :=
  if s.block.sinkEnabled then .next s.sinkError else agentWaits s

/-- NOTE_ON(n), the message on the MIDI output port (R80, R182): when it is the one offered, SINK takes it
(R184); else nothing crosses the port (log 7). -/
def execNoteOn (n : BitVec 7) (s : State) : Host.Outcome State Fault Refusal :=
  if s.block.messageEnabled (noteOnMsg n) then .next s.sinkAccept else agentWaits s

/-- NOTE_OFF(n), the message on the MIDI output port (R80, R183): when it is the one offered, SINK takes it
(R184); else nothing crosses the port (log 7). -/
def execNoteOff (n : BitVec 7) (s : State) : Host.Outcome State Fault Refusal :=
  if s.block.messageEnabled (noteOffMsg n) then .next s.sinkAccept else agentWaits s

/-- RESET: enabled in every state; the trace is not changed and no message is emitted (R230, R233). -/
def execReset (s : State) : Host.Outcome State Fault Refusal := .next (s.withBlock s.block.hardReset)

end Sys2Proof.Machine
end

