-- ==== Sys2Proof/Machine/Tracker.lean ====
section
/-! DEFINITION. The TRACKER (spec/42_note_tracker.md R176 to R181): the note-state machine. The messages it
emits are those of R182 and R183. -/

namespace Sys2Proof.Machine

/-- One Pitch record against the tracker's state: the five cases R177 to R181. The stored amplitude changes
only on a transition into Playing (R179). -/
def Block.react (b : Block) (p : Pitch) : Block :=
  match b.trk with
  | .idle =>
    if p.dead then b
    else { b.emit (noteOnMsg (note p.freq)) with trk := .playing (note p.freq) p.amp }
  | .playing n a =>
    if p.dead then { b.emit (noteOffMsg n) with trk := .idle }
    else if note p.freq = n ∧ le p.amp a = true then b
    else { (b.emit (noteOffMsg n)).emit (noteOnMsg (note p.freq)) with
           trk := .playing (note p.freq) p.amp }

/-- `TrackStep` as the tracker takes it: pop the head of the FIFO and react (R176). -/
def Block.trackStep (b : Block) : Block :=
  match b.fifo with
  | [] => b
  | p :: rest => ({ b with fifo := rest }).react p

/-- TRACK_STEP: taken when enabled, else TRK waits (R176). -/
def execTrackStep (s : State) : Host.Outcome State Fault Refusal :=
  if s.block.trackStepEnabled then .next (s.withBlock s.block.trackStep) else agentWaits s

end Sys2Proof.Machine
end

