-- ==== Sys2Proof/Machine/Dispatch.lean ====
section
/-! DEFINITION. One arm per operation of the opcode table, each a direct call of its meaning. -/

namespace Sys2Proof.Machine

def exec (i : Instr) (s : State) : Host.Outcome State Fault Refusal :=
  match i with
  | .buserrSzNarrow half acc a => Sys2Proof.Machine.execBuserrSzNarrow half acc a s
  | .buserrSzRsvd acc a => Sys2Proof.Machine.execBuserrSzRsvd acc a s
  | .buserrAlign0 acc a => Sys2Proof.Machine.execBuserrAlign0 acc a s
  | .buserrAlign1 acc a => Sys2Proof.Machine.execBuserrAlign1 acc a s
  | .rdCtrl => Sys2Proof.Machine.execRdCtrl s
  | .ctrlSrst d => Sys2Proof.Machine.execCtrlSrst d s
  | .ctrlInject d => Sys2Proof.Machine.execCtrlInject d s
  | .ctrlNop d => Sys2Proof.Machine.execCtrlNop d s
  | .rdStatus => Sys2Proof.Machine.execRdStatus s
  | .wrStatus d => Sys2Proof.Machine.execWrStatus d s
  | .rdThreshold => Sys2Proof.Machine.execRdThreshold s
  | .wrThreshold d => Sys2Proof.Machine.execWrThreshold d s
  | .rdSampleRate => Sys2Proof.Machine.execRdSampleRate s
  | .wrSampleRate d => Sys2Proof.Machine.execWrSampleRate d s
  | .rdLog2n => Sys2Proof.Machine.execRdLog2n s
  | .wrLog2n d => Sys2Proof.Machine.execWrLog2n d s
  | .rdBinIndex => Sys2Proof.Machine.execRdBinIndex s
  | .wrBinIndex d => Sys2Proof.Machine.execWrBinIndex d s
  | .rdPitchFreq => Sys2Proof.Machine.execRdPitchFreq s
  | .rdPitchAmp => Sys2Proof.Machine.execRdPitchAmp s
  | .rdPitchBin => Sys2Proof.Machine.execRdPitchBin s
  | .wrPitchFreq d => Sys2Proof.Machine.execWrPitchFreq d s
  | .wrPitchAmp d => Sys2Proof.Machine.execWrPitchAmp d s
  | .wrPitchBin d => Sys2Proof.Machine.execWrPitchBin d s
  | .rdInjFreq => Sys2Proof.Machine.execRdInjFreq s
  | .wrInjFreq d => Sys2Proof.Machine.execWrInjFreq d s
  | .rdInjAmp => Sys2Proof.Machine.execRdInjAmp s
  | .wrInjAmp d => Sys2Proof.Machine.execWrInjAmp d s
  | .rdTrkState => Sys2Proof.Machine.execRdTrkState s
  | .wrTrkState d => Sys2Proof.Machine.execWrTrkState d s
  | .rdTrkAmp => Sys2Proof.Machine.execRdTrkAmp s
  | .wrTrkAmp d => Sys2Proof.Machine.execWrTrkAmp d s
  | .rdFaultMsg => Sys2Proof.Machine.execRdFaultMsg s
  | .wrFaultMsg d => Sys2Proof.Machine.execWrFaultMsg d s
  | .rdCaps => Sys2Proof.Machine.execRdCaps s
  | .wrCaps d => Sys2Proof.Machine.execWrCaps d s
  | .rdRsvd3C => Sys2Proof.Machine.execRdRsvd3C s
  | .rdRsvd40To7F k => Sys2Proof.Machine.execRdRsvd40To7F k s
  | .rdRsvd80ToFF k => Sys2Proof.Machine.execRdRsvd80ToFF k s
  | .wrRsvd3C d => Sys2Proof.Machine.execWrRsvd3C d s
  | .wrRsvd40To7F k d => Sys2Proof.Machine.execWrRsvd40To7F k d s
  | .wrRsvd80ToFF k d => Sys2Proof.Machine.execWrRsvd80ToFF k d s
  | .sinBeat m => Sys2Proof.Machine.execSinBeat m s
  | .noteOn n => Sys2Proof.Machine.execNoteOn n s
  | .noteOff n => Sys2Proof.Machine.execNoteOff n s
  | .trackStep => Sys2Proof.Machine.execTrackStep s
  | .sinkAccept => Sys2Proof.Machine.execSinkAccept s
  | .sinkError => Sys2Proof.Machine.execSinkError s
  | .reset => Sys2Proof.Machine.execReset s

end Sys2Proof.Machine
end

