-- ==== Sys2Proof/Machine/Step.lean ====
section
/-! DEFINITION. One step of the machine: the agent whose turn it is acts if its event is enabled, else it
waits (spec/00_scope.md R8). -/

namespace Sys2Proof.Machine

/-- One turn. The agent's word is decoded; an enabled event happens, one that is not enabled leaves the word
with its agent and the turn goes by (log 4). With no turn listed nothing happens (log 2). -/
def step (s : State) : Host.Outcome State Fault Refusal :=
  match s.fetch with
  | none => .next s.passTurn
  | some (p, taken) =>
    match decode p with
    | .error .noRow => .fault .noRow
    | .ok i => if eventEnabled i s.block then exec i taken else .next s.passTurn

/-- `s` with the operation whose bits are `w` put before everything else, as the opcode table numbers its
bits (log 2, log 8): the very next step runs it. -/
def State.withFetchWord (s : State) (nbits w : Nat) : State :=
  match portWordOfTable nbits w with
  | some p => s.offer p
  | none => s

end Sys2Proof.Machine
end

