-- ==== Sys2Proof/Machine/Script.lean ====
section
/-! DEFINITION. The event script (spec/30_encoding.md R91, R92): a list of lines in run order names one run
of the block. The text forms of a line's value (decimal, `f:`) are not modelled; the
values they write are (DESIGN CHOICE, log 19). -/

namespace Sys2Proof.Machine

/-- One line of an event script (R91). -/
inductive ScriptLine where
  | reset
  | rd (r : Reg)
  | wr (r : Reg) (v : Word)
  | rdx (sz : BitVec 2) (a : BitVec 8)
  | wrx (sz : BitVec 2) (a : BitVec 8) (v : Word)
  | beat (v : Word)
  | step
  | accept
  | fail
deriving DecidableEq, Repr

/-- The encoding of a line (R91). -/
def scriptWord : ScriptLine → PortWord
  | .reset => .event .reset
  | .rd r => readWord (regOffset r)
  | .wr r v => writeWord (regOffset r) v
  | .rdx sz a => hostWord sz .read a
  | .wrx sz a v => hostWord sz (.write v) a
  | .beat v => .spectrum v
  | .step => .event .trackStep
  | .accept => .event .sinkAccept
  | .fail => .event .sinkError

/-- `srst` (R92). -/
def scriptSrst : List ScriptLine := [.wr .ctrl 0x00000001]

/-- `inject F, A` (R92). -/
def scriptInject (f a : Word) : List ScriptLine :=
  [.wr .injFreq f, .wr .injAmp a, .wr .ctrl 0x00000002]

/-- `release`: a dead Pitch(0, 0) (R92). -/
def scriptRelease : List ScriptLine := scriptInject 0x00000000 0x00000000

/-- `frame V0, …` (R92). -/
def scriptFrame (vs : List Word) : List ScriptLine := vs.map .beat

/-- How many messages a step taken in this block appends to outq: 0, 1 or 2 (R177 to R181). -/
def Block.stepMessages (b : Block) : Nat := b.trackStep.outq.length - b.outq.length

/-- `deliver`: a step, then one accept for each message that step appends to outq in the block where the line
stands (R92). -/
def scriptDeliver (b : Block) : List ScriptLine :=
  .step :: List.replicate b.stepMessages .accept

/-- One item of a script as it is written: a line of R91 or a pseudo-operation of R92. -/
inductive ScriptItem where
  | line (l : ScriptLine)
  | srst
  | inject (f a : Word)
  | release
  | frame (vs : List Word)
  | deliver
deriving DecidableEq, Repr

/-- The lines an item stands for in the block where it stands (R92). Only `deliver` looks at the block. -/
def ScriptItem.expand (b : Block) : ScriptItem → List ScriptLine
  | .line l => [l]
  | .srst => scriptSrst
  | .inject f a => scriptInject f a
  | .release => scriptRelease
  | .frame vs => scriptFrame vs
  | .deliver => scriptDeliver b

/-- The state with a script before everything else: its lines happen first, in order. -/
def State.load (s : State) (ls : List ScriptLine) : State :=
  ls.foldr (fun l t => t.offer (scriptWord l)) s

/-- The state a script's run ends in; none where a line's event is not enabled, such a script naming no run
(R91). -/
def State.play : State → List ScriptLine → Option State
  | s, [] => some s
  | s, l :: ls =>
    match decode (scriptWord l) with
    | .error _ => none
    | .ok i =>
      if eventEnabled i s.block then
        match exec i s with
        | .next t => t.play ls
        | .fault _ => none
        | .refused _ => none
      else none

/-- The lines a script with pseudo-operations stands for, each item expanded in the state its predecessors
leave; none where they name no run (R91, R92). -/
def State.expand : State → List ScriptItem → Option (List ScriptLine)
  | _, [] => some []
  | s, i :: is =>
    (s.play (i.expand s.block)).bind fun t => (t.expand is).map (i.expand s.block ++ ·)

/-- The state the run of a script with pseudo-operations ends in (R91, R92). -/
def State.playItems (s : State) (is : List ScriptItem) : Option State := (s.expand is).bind s.play

end Sys2Proof.Machine
end

