-- ==== Sys2Proof/Safety.lean ====
section
/-! DEFINITION. What claims about the block speak of: its invariant, the pairing of NoteOn and NoteOff, and
when the block is drained or a run finished. -/

namespace Sys2Proof.Machine

/-- The agents (spec/00_scope.md R7). -/
inductive Agent where
  | host
  | src
  | trk
  | sink
  | rst
deriving DecidableEq, Repr

/-- Whose event an operation is (R7). A message crosses the MIDI output port when SINK takes it (log 7). -/
def agentOf (i : Instr) : Agent :=
  match i with
  | .sinBeat _ => .src
  | .trackStep => .trk
  | .sinkAccept | .sinkError | .noteOn _ | .noteOff _ => .sink
  | .reset => .rst
  | .buserrSzNarrow _ _ _ | .buserrSzRsvd _ _ | .buserrAlign0 _ _ | .buserrAlign1 _ _ => .host
  | .rdCtrl | .ctrlSrst _ | .ctrlInject _ | .ctrlNop _ | .rdStatus | .wrStatus _ => .host
  | .rdThreshold | .wrThreshold _ | .rdSampleRate | .wrSampleRate _ | .rdLog2n | .wrLog2n _ => .host
  | .rdBinIndex | .wrBinIndex _ | .rdPitchFreq | .rdPitchAmp | .rdPitchBin => .host
  | .wrPitchFreq _ | .wrPitchAmp _ | .wrPitchBin _ => .host
  | .rdInjFreq | .wrInjFreq _ | .rdInjAmp | .wrInjAmp _ => .host
  | .rdTrkState | .wrTrkState _ | .rdTrkAmp | .wrTrkAmp _ => .host
  | .rdFaultMsg | .wrFaultMsg _ | .rdCaps | .wrCaps _ => .host
  | .rdRsvd3C | .rdRsvd40To7F _ | .rdRsvd80ToFF _ => .host
  | .wrRsvd3C _ | .wrRsvd40To7F _ _ | .wrRsvd80ToFF _ _ => .host

/-- The operations that reset the block (spec/70_reset_and_hazards.md R230, R232). -/
def resets (i : Instr) : Prop := i = .reset ∨ ∃ d, i = .ctrlSrst d

/-- What holds of the block in every state a run reaches (log 12). -/
structure Block.Inv (b : Block) : Prop where
  /-- The parameters are legal (R5). -/
  params_legal : b.params.legal = true
  /-- LOG2N holds a legal value (R28). -/
  cfg_log2n_legal : Params.log2nLegal b.params b.cfgLog2n = true
  /-- The latched exponent is legal (R142). -/
  lat_log2n_legal : Params.log2nLegal b.params b.latLog2n = true
  /-- The bin counter is in 0 .. N-1 (R22). -/
  bin_in_frame : b.bin.toNat < b.frameSize
  /-- The selected bin is in the lower half (R144). -/
  best_in_lower_half : b.bestBin.toNat < b.frameSize / 2
  /-- The running maximum is no NaN and not below +0.0 (R143, R152). -/
  best_not_negative : ge b.bestMag plusZero = true
  /-- The placeholder magnitude goes with bin 0 (R143, R148). -/
  placeholder_bin : b.bestMag = plusZero → b.bestBin = 0
  /-- The FIFO holds at most FIFO_DEPTH records (R38). -/
  fifo_bounded : b.fifo.length ≤ b.params.fifoDepth
  /-- outq holds at most two messages (R40). -/
  outq_bounded : b.outq.length ≤ 2
  /-- A halted block offers no message (R201, R202). -/
  halted_offers_nothing : b.fault = true → b.outq = []
  /-- CAUSE is 1 with the fault and 0 without; 2 to 7 are never produced (R25, R200). -/
  cause_follows_fault : b.cause = if b.fault then 1 else 0
  /-- FAULT_MSG reads 0 while FAULT = 0 (R35). -/
  no_fault_no_message : b.fault = false → b.faultMsg = 0
  /-- The stored amplitude is no NaN and at least DEAD_LEVEL (R39). -/
  playing_amp_live : ∀ n a, b.trk = .playing n a → ge a deadLevel = true
  /-- Before the first emission the readback reads 0 (R30, R31). -/
  readback_unset : b.pvalid = false →
    b.lastFreq = 0 ∧ b.lastAmp = 0 ∧ b.lastBin = 0 ∧ b.lastDead = false
  /-- After it DEAD says whether the read-back Pitch is dead (R31, R149). -/
  readback_dead : b.pvalid = true → b.lastDead = dead b.lastFreq b.lastAmp

/-- k and a are the bin and magnitude the PICKER selects from the magnitudes `ms` of a frame whose lower half
has `half` bins: the lowest bin of greatest magnitude above the threshold, or the placeholder (bin 0,
+0.0) when no magnitude passes (spec/41_peak_picker.md R144, R148). A magnitude that is not above +0.0
never passes (R152). -/
def IsPeak (ms : List Word) (half : Nat) (thr : Word) (k : Nat) (a : Word) : Prop :=
  (k < half ∧ ms[k]? = some a ∧ gt a thr = true ∧ gt a plusZero = true ∧
    (∀ j x, j < half → ms[j]? = some x → gt x thr = true → ge a x = true) ∧
    (∀ j x, j < k → ms[j]? = some x → gt x thr = true → gt a x = true)) ∨
  (k = 0 ∧ a = plusZero ∧
    ∀ j x, j < half → ms[j]? = some x → ¬(gt x thr = true ∧ gt x plusZero = true))

/-- Drained (spec/70_reset_and_hazards.md R236). -/
def Block.drained (b : Block) : Bool :=
  !b.fault && b.fifo.isEmpty && b.outq.isEmpty && decide (b.trk = .idle)

/-- A finished run (spec/70_reset_and_hazards.md R245). -/
def Block.finished (b : Block) : Bool := b.drained && b.bin == 0

/-- The note the tracker's state says is on. -/
def Trk.note : Trk → Option (BitVec 7)
  | .idle => none
  | .playing n _ => some n

/-- The note n of a NOTE_ON(n). -/
def Midi.noteOn? (m : Midi) : Option (BitVec 7) :=
  let n := m.noteByte.setWidth 7
  if m = noteOnMsg n then some n else none

/-- Reads messages in order from a state of the receiver: a NOTE_ON when no note is on turns its note on, a
NOTE_OFF of the note that is on turns it off; anything else is not paired (spec/42_note_tracker.md R187). -/
def soundingAfter : Option (BitVec 7) → List Midi → Option (Option (BitVec 7))
  | on, [] => some on
  | none, m :: ms =>
    match m.noteOn? with
    | some n => soundingAfter (some n) ms
    | none => none
  | some n, m :: ms => if m = noteOffMsg n then soundingAfter none ms else none

/-- The messages appended to outq so far, the accepted ones first: the trace and what waits for SINK. -/
def State.emitted (s : State) : List Midi := s.world.trace ++ s.block.outq

/-- What was emitted alternates NOTE_ON and NOTE_OFF of the same note, and the note left on is the one the
tracker's state names (R39, R186, R187). -/
def State.Paired (s : State) : Prop :=
  soundingAfter none s.emitted = some s.block.trk.note

/-- The events that keep the pairing: all but SinkError (R187) and a reset of a block that is not drained
(R233, R236, log 18). -/
def keepsPairing (i : Instr) (b : Block) : Bool :=
  match i with
  | .sinkError => false
  | .reset | .ctrlSrst _ => b.drained
  | .sinBeat _ | .trackStep | .sinkAccept | .noteOn _ | .noteOff _ => true
  | .buserrSzNarrow _ _ _ | .buserrSzRsvd _ _ | .buserrAlign0 _ _ | .buserrAlign1 _ _ => true
  | .rdCtrl | .ctrlInject _ | .ctrlNop _ | .rdStatus | .wrStatus _ => true
  | .rdThreshold | .wrThreshold _ | .rdSampleRate | .wrSampleRate _ | .rdLog2n | .wrLog2n _ => true
  | .rdBinIndex | .wrBinIndex _ | .rdPitchFreq | .rdPitchAmp | .rdPitchBin => true
  | .wrPitchFreq _ | .wrPitchAmp _ | .wrPitchBin _ => true
  | .rdInjFreq | .wrInjFreq _ | .rdInjAmp | .wrInjAmp _ => true
  | .rdTrkState | .wrTrkState _ | .rdTrkAmp | .wrTrkAmp _ => true
  | .rdFaultMsg | .wrFaultMsg _ | .rdCaps | .wrCaps _ => true
  | .rdRsvd3C | .rdRsvd40To7F _ | .rdRsvd80ToFF _ => true
  | .wrRsvd3C _ | .wrRsvd40To7F _ _ | .wrRsvd80ToFF _ _ => true

end Sys2Proof.Machine
end

