-- ==== Sys2Proof/Certificates/Slice0/Obligations.lean ====
section
/-! DEFINITION. The statements for the provers. A statement about an operation gives the whole next state
as a record update of the state before, so its frame is in the equation: every field and every part of the
world not written in the update is unchanged. -/

open Sys2Proof Sys2Proof.Machine

/-! ## Encoding -/

/-- 30_encoding.md R81, R82, R84, R86, R88: decoding the encoding of a well-formed operation gives it back,
with every operand at every value. -/
def Obligations.DecodeInvertsEncode : Prop :=
  ∀ i : Instr, i.wellFormed = true → decode (encode i) = .ok i

/-- 30_encoding.md R82: every one of the 2^11 headers names an operation, well formed, and that operation's
encoding is the header again (with the data of a write). -/
def Obligations.HeaderDecodingIsTotalAndExact : Prop :=
  ∀ (h : BitVec 11) (d : Word), ∃ i, decode (.host ⟨h, d⟩) = .ok i ∧ i.wellFormed = true ∧
    encode i = .host ⟨h, if h.getLsbD 8 then d else 0⟩

/-- 30_encoding.md R86, R89: a 24-bit word names an operation exactly when it is the wire word of NOTE_ON(n)
or NOTE_OFF(n). -/
def Obligations.MidiWordsAreTheTwoMessages : Prop :=
  ∀ (wd : BitVec 24) (i : Instr), decode (.midi wd) = .ok i ↔
    (∃ n : BitVec 7, i = .noteOn n ∧ wd.toNat = 0x900064 + 256 * n.toNat) ∨
    (∃ n : BitVec 7, i = .noteOff n ∧ wd.toNat = 0x800064 + 256 * n.toNat)

/-- Words of 95_test_vectors.md sections 2.1 and 2.8 decode to the row named there. The last word is in
neither table: it has bit 15 set, so it is no message of 30_encoding.md R86 (R89), and that the decoder then
answers noRow is the model's choice (log 14). -/
def Obligations.SpecWordsDecodeToTheirRows : Prop :=
  decode (.host ⟨0x404, 0⟩) = .ok .rdStatus ∧
  decode (.host ⟨0x204, 0⟩) = .ok (.buserrSzNarrow true .read 0x04) ∧
  decode (.host ⟨0x7FF, 5⟩) = .ok (.buserrSzRsvd (.write 5) 0xFF) ∧
  decode (.host ⟨0x407, 0⟩) = .ok (.buserrAlign0 .read 0x07) ∧
  decode (.host ⟨0x41A, 0⟩) = .ok (.buserrAlign1 .read 0x1A) ∧
  decode (.host ⟨0x500, 0x00000003⟩) = .ok (.ctrlSrst 0x00000003) ∧
  decode (.host ⟨0x500, 0xFFFFFFFE⟩) = .ok (.ctrlInject 0xFFFFFFFE) ∧
  decode (.host ⟨0x47C, 0⟩) = .ok (.rdRsvd40To7F 15) ∧
  decode (.host ⟨0x5FC, 0⟩) = .ok (.wrRsvd80ToFF 31 0) ∧
  decode (.midi 0x904564) = .ok (.noteOn 69) ∧
  decode (.midi 0x80C564) = .error .noRow

/-- 40_host_registers.md R104: a CTRL write is split by its data and answers OKAY in every case. -/
def Obligations.ControlWriteIsSplitByData : Prop :=
  ∀ (d : Word) (s : State),
    (d.getLsbD 0 = true → decode (.host ⟨0x500, d⟩) = .ok (.ctrlSrst d)) ∧
    (d.getLsbD 0 = false → d.getLsbD 1 = true → decode (.host ⟨0x500, d⟩) = .ok (.ctrlInject d)) ∧
    (d.getLsbD 0 = false → d.getLsbD 1 = false → decode (.host ⟨0x500, d⟩) = .ok (.ctrlNop d)) ∧
    ∀ i, decode (.host ⟨0x500, d⟩) = .ok i →
      ∃ t, exec i s = .next t ∧ t.world.responses = s.world.responses ++ [.write .okay]

/-! ## Bus errors -/

/-- 20_memory.md R62, 40_host_registers.md R102: a transaction that is not 32 bits wide or not aligned
answers BUSERR, a read's data being 0, and has no other effect. -/
def Obligations.IllegalTransactionsAnswerBusErr : Prop :=
  ∀ (sz : BitVec 2) (w : Bool) (a : BitVec 8) (d : Word) (s : State),
    sz ≠ 0b10 ∨ a.extractLsb' 0 2 ≠ 0 →
    ∃ i, decode (.host ⟨sz ++ BitVec.ofBool w ++ a, d⟩) = .ok i ∧
      exec i s = .next { s with world := { s.world with
        responses := s.world.responses ++ [if w then .write .buserr else .read 0 .buserr] } }

/-- 40_host_registers.md R102: each of the four BUSERR operations answers so in every state. -/
def Obligations.BusErrorRowsAnswerAndChangeNothing : Prop :=
  ∀ (half : Bool) (a : BitVec 8) (d : Word) (s : State),
    exec (.buserrSzNarrow half .read a) s = .next (s.respond (.read 0 .buserr)) ∧
    exec (.buserrSzNarrow half (.write d) a) s = .next (s.respond (.write .buserr)) ∧
    exec (.buserrSzRsvd .read a) s = .next (s.respond (.read 0 .buserr)) ∧
    exec (.buserrSzRsvd (.write d) a) s = .next (s.respond (.write .buserr)) ∧
    exec (.buserrAlign0 .read a) s = .next (s.respond (.read 0 .buserr)) ∧
    exec (.buserrAlign0 (.write d) a) s = .next (s.respond (.write .buserr)) ∧
    exec (.buserrAlign1 .read a) s = .next (s.respond (.read 0 .buserr)) ∧
    exec (.buserrAlign1 (.write d) a) s = .next (s.respond (.write .buserr))

/-! ## Host reads -/

/-- 20_memory.md R60, R66, 40_host_registers.md R100: an aligned 32-bit read at any address answers the word
the address space shows there, with OKAY, and changes nothing of the block. -/
def Obligations.AlignedReadsShowTheAddressSpace : Prop :=
  ∀ (a : BitVec 8) (d : Word) (s : State), a.extractLsb' 0 2 = 0 →
    ∃ i, decode (.host ⟨0b100#3 ++ a, d⟩) = .ok i ∧
      exec i s = .next (s.respond (.read (s.block.memRead a) .okay))

/-- 40_host_registers.md R103, R110, R112, R114, R124, R126: CTRL reads 0, the configuration and injection
registers read the value last written; with the examples after reset. -/
def Obligations.ConfigurationReads : Prop :=
  (∀ (d : Word) (s : State),
    decode (.host ⟨0x400, d⟩) = .ok .rdCtrl ∧
    exec .rdCtrl s = .next (s.respond (.read 0 .okay)) ∧
    decode (.host ⟨0x408, d⟩) = .ok .rdThreshold ∧
    exec .rdThreshold s = .next (s.respond (.read s.block.cfgThr .okay)) ∧
    decode (.host ⟨0x40C, d⟩) = .ok .rdSampleRate ∧
    exec .rdSampleRate s = .next (s.respond (.read s.block.cfgRate .okay)) ∧
    decode (.host ⟨0x410, d⟩) = .ok .rdLog2n ∧
    exec .rdLog2n s = .next (s.respond (.read (BitVec.ofNat 32 s.block.cfgLog2n.toNat) .okay)) ∧
    decode (.host ⟨0x424, d⟩) = .ok .rdInjFreq ∧
    exec .rdInjFreq s = .next (s.respond (.read s.block.injFreq .okay)) ∧
    decode (.host ⟨0x428, d⟩) = .ok .rdInjAmp ∧
    exec .rdInjAmp s = .next (s.respond (.read s.block.injAmp .okay))) ∧
  exec .rdThreshold State.reset = .next (State.reset.respond (.read 0x437A0000 .okay)) ∧
  exec .rdSampleRate State.reset = .next (State.reset.respond (.read 0x0000BB80 .okay)) ∧
  exec .rdLog2n State.reset = .next (State.reset.respond (.read 0x0000000D .okay))

/-- 10_state.md R25, R44, 40_host_registers.md R108: a read of STATUS answers each flag in its bit, the
reserved bits being 0; the fault output shows FAULT. -/
def Obligations.StatusReadShowsEveryFlag : Prop :=
  ∀ (d : Word) (s : State), decode (.host ⟨0x404, d⟩) = .ok .rdStatus ∧
    ∃ w : Word, exec .rdStatus s = .next (s.respond (.read w .okay)) ∧
      w.getLsbD 0 = s.block.fault ∧
      s.faultOutput = w.getLsbD 0 ∧
      w.getLsbD 1 = s.block.injDrop ∧
      (w.getLsbD 2 = true ↔ s.block.fifo.length = 0) ∧
      (w.getLsbD 3 = true ↔ s.block.fifo.length = s.block.params.fifoDepth) ∧
      (w.getLsbD 4 = true ↔ ∃ n a, s.block.trk = .playing n a) ∧
      (w.getLsbD 5 = true ↔ s.block.outq ≠ []) ∧
      (w.getLsbD 6 = true ↔ s.block.bin ≠ 0) ∧
      w.getLsbD 7 = s.block.pvalid ∧
      w.extractLsb' 8 3 = s.block.cause ∧
      w.extractLsb' 11 5 = 0 ∧
      w.extractLsb' 16 8 = BitVec.ofNat 8 s.block.fifo.length ∧
      w.extractLsb' 24 8 = 0

/-- 40_host_registers.md R116, R118, R119, R120: the PICKER's observation registers. -/
def Obligations.PickerRegisterReads : Prop :=
  ∀ (d : Word) (s : State),
    decode (.host ⟨0x414, d⟩) = .ok .rdBinIndex ∧
    exec .rdBinIndex s = .next (s.respond (.read (BitVec.ofNat 32 s.block.bin.toNat) .okay)) ∧
    decode (.host ⟨0x418, d⟩) = .ok .rdPitchFreq ∧
    exec .rdPitchFreq s = .next (s.respond (.read s.block.lastFreq .okay)) ∧
    decode (.host ⟨0x41C, d⟩) = .ok .rdPitchAmp ∧
    exec .rdPitchAmp s = .next (s.respond (.read s.block.lastAmp .okay)) ∧
    decode (.host ⟨0x420, d⟩) = .ok .rdPitchBin ∧
    exec .rdPitchBin s = .next (s.respond (.read (BitVec.ofNat 32
      ((if s.block.lastDead then 2 ^ 31 else 0) + s.block.lastBin.toNat)) .okay))

/-- 40_host_registers.md R128, R130, R132, R134: the tracker's registers, FAULT_MSG and CAPS. -/
def Obligations.TrackerFaultAndCapsReads : Prop :=
  ∀ (d : Word) (s : State),
    decode (.host ⟨0x42C, d⟩) = .ok .rdTrkState ∧
    decode (.host ⟨0x430, d⟩) = .ok .rdTrkAmp ∧
    (s.block.trk = .idle →
      exec .rdTrkState s = .next (s.respond (.read 0 .okay)) ∧
      exec .rdTrkAmp s = .next (s.respond (.read 0 .okay))) ∧
    (∀ n a, s.block.trk = .playing n a →
      exec .rdTrkState s = .next (s.respond (.read (BitVec.ofNat 32 (n.toNat * 256 + 1)) .okay)) ∧
      exec .rdTrkAmp s = .next (s.respond (.read a .okay))) ∧
    decode (.host ⟨0x434, d⟩) = .ok .rdFaultMsg ∧
    exec .rdFaultMsg s = .next (s.respond (.read (BitVec.ofNat 32 s.block.faultMsg.toNat) .okay)) ∧
    decode (.host ⟨0x438, d⟩) = .ok .rdCaps ∧
    ∃ w, exec .rdCaps s = .next (s.respond (.read w .okay)) ∧
      (s.block.params.legal = true →
        w = BitVec.ofNat 32 (s.block.params.fifoDepth * 256 + s.block.params.log2nMax))

/-- 40_host_registers.md R136: an aligned 32-bit read at a reserved address answers 0 with OKAY. -/
def Obligations.ReservedReadsAnswerZero : Prop :=
  ∀ (s : State),
    exec .rdRsvd3C s = .next (s.respond (.read 0 .okay)) ∧
    (∀ i, exec (.rdRsvd40To7F i) s = .next (s.respond (.read 0 .okay))) ∧
    (∀ i, exec (.rdRsvd80ToFF i) s = .next (s.respond (.read 0 .okay))) ∧
    ∀ (a : BitVec 8) (d : Word), a.extractLsb' 0 2 = 0 → a = 0x3C ∨ 0x40 ≤ a.toNat →
      ∃ i, decode (.host ⟨0b100#3 ++ a, d⟩) = .ok i ∧
        exec i s = .next (s.respond (.read 0 .okay))

/-! ## Host writes -/

/-- 40_host_registers.md R137: an aligned 32-bit write at a reserved address answers OKAY and changes
nothing. -/
def Obligations.ReservedWritesAreIgnored : Prop :=
  ∀ (s : State) (d : Word),
    exec (.wrRsvd3C d) s = .next (s.respond (.write .okay)) ∧
    (∀ i, exec (.wrRsvd40To7F i d) s = .next (s.respond (.write .okay))) ∧
    (∀ i, exec (.wrRsvd80ToFF i d) s = .next (s.respond (.write .okay))) ∧
    ∀ a : BitVec 8, a.extractLsb' 0 2 = 0 → a = 0x3C ∨ 0x40 ≤ a.toNat →
      ∃ i, decode (.host ⟨0b101#3 ++ a, d⟩) = .ok i ∧
        exec i s = .next (s.respond (.write .okay))

/-- 40_host_registers.md R121, R122, R123, R129, R131, R133, R135 (and the write of R117): a write to a
read-only register answers OKAY and changes nothing. -/
def Obligations.ReadOnlyWritesAreIgnored : Prop :=
  ∀ (d : Word) (s : State),
    decode (.host ⟨0x514, d⟩) = .ok (.wrBinIndex d) ∧
    exec (.wrBinIndex d) s = .next (s.respond (.write .okay)) ∧
    decode (.host ⟨0x518, d⟩) = .ok (.wrPitchFreq d) ∧
    exec (.wrPitchFreq d) s = .next (s.respond (.write .okay)) ∧
    decode (.host ⟨0x51C, d⟩) = .ok (.wrPitchAmp d) ∧
    exec (.wrPitchAmp d) s = .next (s.respond (.write .okay)) ∧
    decode (.host ⟨0x520, d⟩) = .ok (.wrPitchBin d) ∧
    exec (.wrPitchBin d) s = .next (s.respond (.write .okay)) ∧
    decode (.host ⟨0x52C, d⟩) = .ok (.wrTrkState d) ∧
    exec (.wrTrkState d) s = .next (s.respond (.write .okay)) ∧
    decode (.host ⟨0x530, d⟩) = .ok (.wrTrkAmp d) ∧
    exec (.wrTrkAmp d) s = .next (s.respond (.write .okay)) ∧
    decode (.host ⟨0x534, d⟩) = .ok (.wrFaultMsg d) ∧
    exec (.wrFaultMsg d) s = .next (s.respond (.write .okay)) ∧
    decode (.host ⟨0x538, d⟩) = .ok (.wrCaps d) ∧
    exec (.wrCaps d) s = .next (s.respond (.write .okay))

/-- 40_host_registers.md R107: a CTRL write with neither command bit changes nothing and answers OKAY. -/
def Obligations.ControlNopChangesNothing : Prop :=
  ∀ (d : Word) (s : State),
    (d.extractLsb' 0 2 = 0 → decode (.host ⟨0x500, d⟩) = .ok (.ctrlNop d)) ∧
    exec (.ctrlNop d) s = .next (s.respond (.write .okay))

/-- 40_host_registers.md R125, R127: the injection registers store their data, and nothing else changes. -/
def Obligations.InjectionRegisterWrites : Prop :=
  ∀ (d : Word) (s : State),
    decode (.host ⟨0x524, d⟩) = .ok (.wrInjFreq d) ∧
    exec (.wrInjFreq d) s =
      .next ({ s with block := { s.block with injFreq := d } }.respond (.write .okay)) ∧
    decode (.host ⟨0x528, d⟩) = .ok (.wrInjAmp d) ∧
    exec (.wrInjAmp d) s =
      .next ({ s with block := { s.block with injAmp := d } }.respond (.write .okay))

/-- 40_host_registers.md R111, R113: THRESHOLD and SAMPLE_RATE store every pattern; the latched copies of
the current frame, and all else, stay. -/
def Obligations.ThresholdAndRateWrites : Prop :=
  ∀ (d : Word) (s : State),
    decode (.host ⟨0x508, d⟩) = .ok (.wrThreshold d) ∧
    exec (.wrThreshold d) s =
      .next ({ s with block := { s.block with cfgThr := d } }.respond (.write .okay)) ∧
    decode (.host ⟨0x50C, d⟩) = .ok (.wrSampleRate d) ∧
    exec (.wrSampleRate d) s =
      .next ({ s with block := { s.block with cfgRate := d } }.respond (.write .okay))

/-- 10_state.md R28, 40_host_registers.md R115: a LOG2N write stores data bits 4:0 when they are
1 .. LOG2N_MAX, and is ignored otherwise. -/
def Obligations.Log2nStoresLegalValuesOnly : Prop :=
  ∀ (d : Word) (s : State),
    decode (.host ⟨0x510, d⟩) = .ok (.wrLog2n d) ∧
    (1 ≤ d.toNat % 32 → d.toNat % 32 ≤ s.block.params.log2nMax →
      exec (.wrLog2n d) s = .next ({ s with block := { s.block with
        cfgLog2n := BitVec.ofNat 5 (d.toNat % 32) } }.respond (.write .okay))) ∧
    (d.toNat % 32 = 0 ∨ s.block.params.log2nMax < d.toNat % 32 →
      exec (.wrLog2n d) s = .next (s.respond (.write .okay)))

/-- 40_host_registers.md R109: a STATUS write with bit 1 set clears INJ_DROP; every other bit is ignored, so
FAULT stays. -/
def Obligations.StatusWriteClearsInjDropOnly : Prop :=
  ∀ (d : Word) (s : State),
    decode (.host ⟨0x504, d⟩) = .ok (.wrStatus d) ∧
    (d.getLsbD 1 = true → exec (.wrStatus d) s =
      .next ({ s with block := { s.block with injDrop := false } }.respond (.write .okay))) ∧
    (d.getLsbD 1 = false → exec (.wrStatus d) s = .next (s.respond (.write .okay)))

/-- 40_host_registers.md R106: an injection pushes the record as written, or, when the block is halted or
the FIFO full, drops it and sets INJ_DROP; the readback registers stay. -/
def Obligations.InjectionPushesOrDrops : Prop :=
  ∀ (d : Word) (s : State),
    (d.getLsbD 0 = false → d.getLsbD 1 = true → decode (.host ⟨0x500, d⟩) = .ok (.ctrlInject d)) ∧
    (s.block.fault = true ∨ s.block.fifo.length = s.block.params.fifoDepth →
      exec (.ctrlInject d) s =
        .next ({ s with block := { s.block with injDrop := true } }.respond (.write .okay))) ∧
    (s.block.fault = false → s.block.fifo.length ≠ s.block.params.fifoDepth →
      exec (.ctrlInject d) s =
        .next ({ s with block := { s.block with
          fifo := s.block.fifo ++ [Pitch.mk s.block.injFreq s.block.injAmp] } }.respond (.write .okay)))

/-! ## Resets -/

/-- 10_state.md R43: the value of every state field after a hard and after a soft reset; neither changes
the trace. -/
def Obligations.BothResetsSetEveryField : Prop :=
  ∀ (d : Word) (s : State),
    exec .reset s = .next { s with block := {
      params := s.block.params
      cfgThr := 0x437A0000, cfgRate := 48000, cfgLog2n := 13, injFreq := 0, injAmp := 0
      bin := 0, latThr := 0x437A0000, latRate := 48000, latLog2n := 13, bestMag := 0, bestBin := 0
      lastFreq := 0, lastAmp := 0, lastBin := 0, lastDead := false, pvalid := false
      fifo := [], trk := .idle, outq := [], fault := false, cause := 0, faultMsg := 0
      injDrop := false } } ∧
    exec (.ctrlSrst d) s = .next ({ s with block := {
      params := s.block.params
      cfgThr := s.block.cfgThr, cfgRate := s.block.cfgRate, cfgLog2n := s.block.cfgLog2n
      injFreq := s.block.injFreq, injAmp := s.block.injAmp
      bin := 0, latThr := s.block.cfgThr, latRate := s.block.cfgRate, latLog2n := s.block.cfgLog2n
      bestMag := 0, bestBin := 0
      lastFreq := 0, lastAmp := 0, lastBin := 0, lastDead := false, pvalid := false
      fifo := [], trk := .idle, outq := [], fault := false, cause := 0, faultMsg := 0
      injDrop := false } }.respond (.write .okay))

/-- 10_state.md R25: after a hard or soft reset STATUS reads 0x00000004, from any state with legal
parameters. -/
def Obligations.StatusAfterAResetIsFour : Prop :=
  ∀ (d : Word) (s t : State) (i : Instr), s.block.params.legal = true →
    i = .reset ∨ i = .ctrlSrst d → exec i s = .next t →
    exec .rdStatus t = .next (t.respond (.read 0x00000004 .okay))

/-! ## The PICKER -/

/-- 41_peak_picker.md R143: the first beat of a frame latches the configuration, starts the running maximum
at the placeholder and is then compared. -/
def Obligations.FirstBeatLatchesTheConfiguration : Prop :=
  ∀ (m : Word) (s : State), s.block.fault = false → s.block.bin = 0 → 1 ≤ s.block.cfgLog2n.toNat →
    exec (.sinBeat m) s = .next { s with block := { s.block with
      latThr := s.block.cfgThr, latRate := s.block.cfgRate, latLog2n := s.block.cfgLog2n
      bestMag := if gt m s.block.cfgThr && gt m 0x00000000 then m else 0x00000000
      bestBin := 0
      bin := 1 } }

/-- 41_peak_picker.md R144, R145: inside a frame, a beat of the lower half replaces the running maximum if
and only if it is strictly above the threshold and the maximum; one of the mirror half only counts. -/
def Obligations.InnerBeatsCompareInTheLowerHalfOnly : Prop :=
  ∀ (m : Word) (s : State), s.block.fault = false → s.block.bin ≠ 0 →
    (s.block.bin.toNat < 2 ^ s.block.latLog2n.toNat / 2 →
      exec (.sinBeat m) s = .next { s with block := { s.block with
        bestMag := if gt m s.block.latThr && gt m s.block.bestMag then m else s.block.bestMag
        bestBin := if gt m s.block.latThr && gt m s.block.bestMag then s.block.bin else s.block.bestBin
        bin := s.block.bin + 1 } }) ∧
    (2 ^ s.block.latLog2n.toNat / 2 ≤ s.block.bin.toNat →
      s.block.bin.toNat ≠ 2 ^ s.block.latLog2n.toNat - 1 →
      exec (.sinBeat m) s = .next { s with block := { s.block with bin := s.block.bin + 1 } })

/-- 41_peak_picker.md R146, R149: the last beat of a frame pushes the Pitch of the selected bin, updates the
readback and sets the bin counter to 0, in one event. -/
def Obligations.LastBeatEmitsThePitch : Prop :=
  ∀ (m : Word) (s : State), s.block.fault = false → s.block.bin ≠ 0 →
    s.block.bin.toNat = 2 ^ s.block.latLog2n.toNat - 1 →
    s.block.fifo.length ≠ s.block.params.fifoDepth →
    exec (.sinBeat m) s = .next { s with block := { s.block with
      fifo := s.block.fifo ++
        [⟨binfreq s.block.bestBin s.block.latRate s.block.latLog2n, s.block.bestMag⟩]
      lastFreq := binfreq s.block.bestBin s.block.latRate s.block.latLog2n
      lastAmp := s.block.bestMag
      lastBin := s.block.bestBin
      lastDead := !(ge s.block.bestMag 0x3C23D70A &&
        gt (binfreq s.block.bestBin s.block.latRate s.block.latLog2n) 0x00000000)
      pvalid := true
      bin := 0 } }

/-- 41_peak_picker.md R150: a beat is taken if and only if the block is not halted and the beat is not the
last of a frame with the FIFO full. Taken, it does all that `Beat(m)` does (R141) and nothing outside the
block changes; in a block that meets its invariant it advances the bin counter below N-1, and at N-1 wraps it
and pushes one Pitch. Otherwise SRC waits and nothing changes (that exec then answers the same state is the
model's choice, log 4). -/
def Obligations.BeatIsTakenExactlyWhenEnabled : Prop :=
  ∀ (m : Word) (s : State),
    let waits := s.block.fault = true ∨ (s.block.bin ≠ 0 ∧
      s.block.bin.toNat = 2 ^ s.block.latLog2n.toNat - 1 ∧
      s.block.fifo.length = s.block.params.fifoDepth)
    let size := if s.block.bin = 0 then 2 ^ s.block.cfgLog2n.toNat else 2 ^ s.block.latLog2n.toNat
    (waits ↔ eventEnabled (.sinBeat m) s.block = false) ∧
    (waits → exec (.sinBeat m) s = .next s) ∧
    (¬ waits → ∃ t, exec (.sinBeat m) s = .next t ∧ t.block = s.block.beat m ∧ t.world = s.world ∧
      (s.block.Inv →
        (s.block.bin.toNat + 1 < size ∧ t.block.bin.toNat = s.block.bin.toNat + 1 ∧
          t.block.fifo = s.block.fifo) ∨
        (s.block.bin.toNat + 1 = size ∧ t.block.bin = 0 ∧ t.block.pvalid = true ∧
          t.block.fifo = s.block.fifo ++ [Pitch.mk t.block.lastFreq t.block.lastAmp])))

/-- 41_peak_picker.md R140 to R149: the N beats of a frame push exactly one Pitch, that of the lowest bin of
greatest magnitude above the threshold in the lower half, or the placeholder. -/
def Obligations.FrameYieldsItsLowestLoudestBin : Prop :=
  ∀ (s : State) (ms : List Word), s.block.fault = false → s.block.bin = 0 →
    s.block.params.legal = true → Params.log2nLegal s.block.params s.block.cfgLog2n = true →
    s.block.fifo.length < s.block.params.fifoDepth →
    ms.length = 2 ^ s.block.cfgLog2n.toNat →
    ∃ (k : BitVec 16) (a : Word),
      IsPeak ms (2 ^ s.block.cfgLog2n.toNat / 2) s.block.cfgThr k.toNat a ∧
      s.play (scriptFrame ms) = some { s with block := { s.block with
        latThr := s.block.cfgThr, latRate := s.block.cfgRate, latLog2n := s.block.cfgLog2n
        bestMag := a, bestBin := k
        fifo := s.block.fifo ++ [⟨binfreq k s.block.cfgRate s.block.cfgLog2n, a⟩]
        lastFreq := binfreq k s.block.cfgRate s.block.cfgLog2n
        lastAmp := a
        lastBin := k
        lastDead := dead (binfreq k s.block.cfgRate s.block.cfgLog2n) a
        pvalid := true
        bin := 0 } }

/-- 70_reset_and_hazards.md R235: what the host writes to THRESHOLD, SAMPLE_RATE and LOG2N while a frame is
active does not affect the rest of that frame. -/
def Obligations.ConfigurationWritesSpareTheFrameInProgress : Prop :=
  ∀ (s t : State) (ms : List Word) (thr rate : Word) (l : BitVec 5),
    s.block.bin ≠ 0 → s.block.latLog2n.toNat ≤ 16 →
    s.block.bin.toNat + ms.length ≤ 2 ^ s.block.latLog2n.toNat →
    s.play (scriptFrame ms) = some t →
    State.play { s with block := { s.block with cfgThr := thr, cfgRate := rate, cfgLog2n := l } }
        (scriptFrame ms) =
      some { t with block := { t.block with cfgThr := thr, cfgRate := rate, cfgLog2n := l } }

/-! ## Binary32 and notes -/

/-- 00_scope.md R11: rne32 of an integer below 2^48 is a finite value nearest to it, exact below 2^24, and
where another value is as near, rne32's significand is even. Values are in units of 2^-149. -/
def Obligations.RoundingIsNearestTiesToEven : Prop :=
  ∀ x : Nat, x < 2 ^ 48 → ∃ u : Int, F (rne32 x) = .finite u ∧
    (x < 2 ^ 24 → u = (x : Int) * 2 ^ 149) ∧
    ∀ (b : Word) (v : Int), F b = .finite v →
      |u - (x : Int) * 2 ^ 149| ≤ |v - (x : Int) * 2 ^ 149| ∧
      (|u - (x : Int) * 2 ^ 149| = |v - (x : Int) * 2 ^ 149| →
        v = u ∨ (rne32 x).getLsbD 0 = false)

/-- 41_peak_picker.md R147: the scaling by 2^-L is exact, so binfreq(k, R, L) · 2^L is the rounded product,
and below 2^24 the frequency is exactly k·R/2^L. -/
def Obligations.BinToHertzScalesExactly : Prop :=
  ∀ (k : BitVec 16) (rate : Word) (l : BitVec 5), ∃ u v : Int,
    F (binfreq k rate l) = .finite u ∧ F (rne32 (k.toNat * rate.toNat)) = .finite v ∧
    u * 2 ^ l.toNat = v ∧
    (k.toNat * rate.toNat < 2 ^ 24 →
      u * 2 ^ l.toNat = (k.toNat * rate.toNat : Nat) * 2 ^ 149)

/-- For fixed rate and exponent, larger bins give frequencies that are not smaller: an inference the spec
marks as its own (41_peak_picker.md R153, "derived: from rule R147"). -/
def Obligations.BinToHertzIsMonotone : Prop :=
  ∀ (k1 k2 : BitVec 16) (rate : Word) (l : BitVec 5), k1.toNat ≤ k2.toNat →
    le (binfreq k1 rate l) (binfreq k2 rate l) = true

/-- 00_scope.md R11: gt, ge and le are the IEEE ordered comparisons. Each is false with a NaN; the patterns
without sign bit that are no NaN are ordered as integers, those with it the other way round, and one without
is above one with it unless both are zeros, which compare equal. What value the bits of a pattern stand for,
on which the order of patterns rests, is PRESUMED (log 10): R11 names IEEE 754 from general knowledge. -/
def Obligations.ComparisonsOrderPatterns : Prop :=
  (∀ a b : Word, F a = .nan ∨ F b = .nan → gt a b = false ∧ ge a b = false ∧ le a b = false) ∧
  (∀ a b : Word, a.toNat ≤ 0x7F800000 → b.toNat ≤ 0x7F800000 →
    (gt a b = true ↔ b.toNat < a.toNat) ∧ (ge a b = true ↔ b.toNat ≤ a.toNat) ∧
    (le a b = true ↔ a.toNat ≤ b.toNat) ∧
    (gt (a ||| 0x80000000) (b ||| 0x80000000) = true ↔ a.toNat < b.toNat) ∧
    (ge (a ||| 0x80000000) (b ||| 0x80000000) = true ↔ a.toNat ≤ b.toNat) ∧
    (le (a ||| 0x80000000) (b ||| 0x80000000) = true ↔ b.toNat ≤ a.toNat) ∧
    (gt a (b ||| 0x80000000) = true ↔ 0 < a.toNat ∨ 0 < b.toNat) ∧
    ge a (b ||| 0x80000000) = true ∧
    (le a (b ||| 0x80000000) = true ↔ a.toNat = 0 ∧ b.toNat = 0) ∧
    gt (a ||| 0x80000000) b = false ∧
    (ge (a ||| 0x80000000) b = true ↔ a.toNat = 0 ∧ b.toNat = 0) ∧
    le (a ||| 0x80000000) b = true)

/-- 42_note_tracker.md R172: the note number is the integer nearest 12·log2(f/440) + 69, clamped to 0..127;
+inf has note 127; with the source's three examples. -/
def Obligations.NoteIsTheNearestSemitone : Prop :=
  (∀ (freq : Word) (u : Int), F freq = .finite u → 0 < u →
    ((note freq).toNat : Int) =
      max 0 (min 127 (round (12 * Real.logb 2 ((u : ℝ) / 2 ^ 149 / 440) + 69)))) ∧
  (∀ freq : Word, F freq = .infinite false → note freq = 127) ∧
  note 0x43DC0000 = 69 ∧ note 0x445C0000 = 81 ∧ note 0x435C0000 = 57

/-- For a positive finite frequency, x = 12·log2(f/440) + 69 is never half-way between two integers, so the
note the block counts is the same whether halves round up or down: an inference the spec marks as its own
(42_note_tracker.md R175, "derived: from rule R172"). -/
def Obligations.SemitonesNeverTie : Prop :=
  ∀ (freq : Word) (u : Int), F freq = .finite u → 0 < u →
    let x : ℝ := 12 * Real.logb 2 ((u : ℝ) / 2 ^ 149 / 440) + 69
    ((note freq).toNat : Int) = max 0 (min 127 ⌊x + 1 / 2⌋) ∧
    ((note freq).toNat : Int) = max 0 (min 127 ⌈x - 1 / 2⌉) ∧
    ∀ m : Int, x ≠ (m : ℝ) + 1 / 2

/-- 42_note_tracker.md R171: a Pitch is live exactly when its amplitude is a value of at least DEAD_LEVEL,
10737418 · 2^-30, and its frequency a value above 0; a NaN in either field makes it dead. -/
def Obligations.LivePitchesByValue : Prop :=
  ∀ freq amp : Word, dead freq amp = false ↔
    (F amp = .infinite false ∨ ∃ u, F amp = .finite u ∧ 10737418 * 2 ^ 119 ≤ u) ∧
    (F freq = .infinite false ∨ ∃ v, F freq = .finite v ∧ 0 < v)

/-! ## The TRACKER -/

/-- 42_note_tracker.md R177, R181: a step on a dead Pitch emits nothing from Idle, and exactly NOTE_OFF(n)
from Playing(n, a), which becomes Idle. -/
def Obligations.TrackStepOnADeadPitch : Prop :=
  ∀ (s : State) (p : Pitch) (rest : List Pitch), s.block.fault = false → s.block.outq = [] →
    s.block.fifo = p :: rest → ¬(ge p.amp 0x3C23D70A = true ∧ gt p.freq 0x00000000 = true) →
    (s.block.trk = .idle →
      exec .trackStep s = .next { s with block := { s.block with fifo := rest } }) ∧
    (∀ n a, s.block.trk = .playing n a →
      exec .trackStep s = .next { s with block := { s.block with
        fifo := rest, trk := .idle, outq := [⟨0x80, n.setWidth 8, 0x64⟩] } })

/-- 42_note_tracker.md R178, R179, R180: a step on a live Pitch starts a note from Idle; from Playing(n, a)
the same note not louder continues with the stored amplitude unchanged, and any other retriggers. -/
def Obligations.TrackStepOnALivePitch : Prop :=
  ∀ (s : State) (p : Pitch) (rest : List Pitch), s.block.fault = false → s.block.outq = [] →
    s.block.fifo = p :: rest → ge p.amp 0x3C23D70A = true → gt p.freq 0x00000000 = true →
    (s.block.trk = .idle →
      exec .trackStep s = .next { s with block := { s.block with
        fifo := rest, trk := .playing (note p.freq) p.amp
        outq := [⟨0x90, (note p.freq).setWidth 8, 0x64⟩] } }) ∧
    (∀ n a, s.block.trk = .playing n a → note p.freq = n → le p.amp a = true →
      exec .trackStep s = .next { s with block := { s.block with fifo := rest } }) ∧
    (∀ n a, s.block.trk = .playing n a → note p.freq ≠ n ∨ le p.amp a = false →
      exec .trackStep s = .next { s with block := { s.block with
        fifo := rest, trk := .playing (note p.freq) p.amp
        outq := [⟨0x80, n.setWidth 8, 0x64⟩, ⟨0x90, (note p.freq).setWidth 8, 0x64⟩] } })

/-- 42_note_tracker.md R182, R183: the wire words of the two messages. -/
def Obligations.MessagesHaveTheirWireWords : Prop :=
  ∀ n : BitVec 7,
    noteOnMsg n = ⟨0x90, n.setWidth 8, 0x64⟩ ∧
    (noteOnMsg n).wireWord = 0x900064 ||| (n.setWidth 24 <<< 8) ∧
    noteOffMsg n = ⟨0x80, n.setWidth 8, 0x64⟩ ∧
    (noteOffMsg n).wireWord = 0x800064 ||| (n.setWidth 24 <<< 8)

/-- 10_state.md R40, 42_note_tracker.md R182, R183, R184: NOTE_ON(n) and NOTE_OFF(n), the messages of the MIDI
output port. When such a message is the head of outq and the block is not halted, it crosses the port: it
leaves outq and joins the trace, exactly as by SinkAccept. That the row of a message means its crossing is the
model's choice (log 7). -/
def Obligations.MessagesCrossTheMidiPort : Prop :=
  ∀ (n : BitVec 7) (s : State) (rest : List Midi), s.block.fault = false →
    (s.block.outq = ⟨0x90, n.setWidth 8, 0x64⟩ :: rest →
      exec (.noteOn n) s = .next
        { block := { s.block with outq := rest }
          world := { s.world with trace := s.world.trace ++ [⟨0x90, n.setWidth 8, 0x64⟩] } } ∧
      exec .sinkAccept s = exec (.noteOn n) s) ∧
    (s.block.outq = ⟨0x80, n.setWidth 8, 0x64⟩ :: rest →
      exec (.noteOff n) s = .next
        { block := { s.block with outq := rest }
          world := { s.world with trace := s.world.trace ++ [⟨0x80, n.setWidth 8, 0x64⟩] } } ∧
      exec .sinkAccept s = exec (.noteOff n) s)

/-! ## SINK and the fault -/

/-- 42_note_tracker.md R184: SinkAccept is enabled when the block is not halted and offers a message, which is
the head of outq; it moves that message to the end of the trace. -/
def Obligations.SinkAcceptDeliversTheHead : Prop :=
  (∀ b : Block, eventEnabled .sinkAccept b = true ↔ b.fault = false ∧ b.outq ≠ []) ∧
  (∀ (b : Block) (m : Midi) (rest : List Midi), b.outq = m :: rest → b.offered = some m) ∧
  ∀ (s : State) (m : Midi) (rest : List Midi), s.block.fault = false → s.block.outq = m :: rest →
    exec .sinkAccept s = .next
      { block := { s.block with outq := rest }
        world := { s.world with trace := s.world.trace ++ [m] } }

/-- 42_note_tracker.md R185, 60_exceptions.md R201: SinkError is enabled when SinkAccept is; it records the
refused message, empties outq undelivered and halts; trk, the FIFO, the PICKER, the configuration and the
trace stay. -/
def Obligations.SinkErrorTakesTheFault : Prop :=
  (∀ b : Block, eventEnabled .sinkError b = true ↔ b.fault = false ∧ b.outq ≠ []) ∧
  ∀ (s : State) (m : Midi) (rest : List Midi), s.block.fault = false → s.block.outq = m :: rest →
    exec .sinkError s = .next { s with block := { s.block with
      fault := true, cause := 1
      faultMsg := BitVec.ofNat 24
        (m.statusByte.toNat * 2 ^ 16 + m.noteByte.toNat * 2 ^ 8 + m.velocityByte.toNat)
      outq := [] } }

/-- 42_note_tracker.md R176, R184, R185: an agent whose event is not enabled waits and nothing changes
(00_scope.md R8; that exec then answers the same state is the model's choice, log 4); a message that is not the
one offered does not cross the MIDI output port (10_state.md R40, log 7). -/
def Obligations.DisabledEventsChangeNothing : Prop :=
  ∀ s : State,
    (s.block.fault = true ∨ s.block.outq ≠ [] ∨ s.block.fifo = [] → exec .trackStep s = .next s) ∧
    (s.block.fault = true ∨ s.block.outq = [] →
      exec .sinkAccept s = .next s ∧ exec .sinkError s = .next s) ∧
    (∀ n, s.block.fault = true ∨ s.block.outq.head? ≠ some ⟨0x90, n.setWidth 8, 0x64⟩ →
      exec (.noteOn n) s = .next s) ∧
    (∀ n, s.block.fault = true ∨ s.block.outq.head? ≠ some ⟨0x80, n.setWidth 8, 0x64⟩ →
      exec (.noteOff n) s = .next s)

/-- 60_exceptions.md R200, R201: only SinkError raises the fault, with the message at the head of outq. -/
def Obligations.OnlySinkErrorRaisesTheFault : Prop :=
  ∀ (i : Instr) (s t : State), exec i s = .next t → s.block.fault = false → t.block.fault = true →
    i = .sinkError ∧ ∃ m rest, s.block.outq = m :: rest ∧ t.block.faultMsg = m.wireWord ∧
      t.block.cause = 1 ∧ t.block.outq = [] ∧ t.block.trk = s.block.trk ∧
      t.block.fifo = s.block.fifo ∧ t.world.trace = s.world.trace

/-- 60_exceptions.md R202, R209: while the block is halted, no operation but a reset changes anything but
the configuration, the injection registers and INJ_DROP, and an injection sets INJ_DROP; so only Reset and
CTRL_SRST leave the halt. R202 says that the other agents' events are not enabled; that exec then answers the
same state is the model's choice (log 4, and for NOTE_ON and NOTE_OFF also log 7). -/
def Obligations.OnlyResetsLeaveTheHalt : Prop :=
  ∀ (i : Instr) (s t : State), s.block.fault = true → exec i s = .next t →
    (resets i → t.block.fault = false) ∧
    (¬ resets i →
      t.block = { s.block with
        cfgThr := t.block.cfgThr, cfgRate := t.block.cfgRate, cfgLog2n := t.block.cfgLog2n
        injFreq := t.block.injFreq, injAmp := t.block.injAmp, injDrop := t.block.injDrop } ∧
      t.world.trace = s.world.trace ∧
      (agentOf i ≠ .host → t = s) ∧
      (∀ d, i = .ctrlInject d → t.block.injDrop = true))

/-! ## What an operation may change -/

/-- 60_exceptions.md R215: which agent writes which state, for every operation but the two resets. -/
def Obligations.AgentsWriteTheirOwnState : Prop :=
  ∀ (i : Instr) (s t : State), exec i s = .next t → ¬ resets i →
    (agentOf i = .host →
      t.block = { s.block with
        cfgThr := t.block.cfgThr, cfgRate := t.block.cfgRate, cfgLog2n := t.block.cfgLog2n
        injFreq := t.block.injFreq, injAmp := t.block.injAmp, injDrop := t.block.injDrop
        fifo := t.block.fifo } ∧
      (t.block.fifo = s.block.fifo ∨ ∃ p, t.block.fifo = s.block.fifo ++ [p]) ∧
      (∃ r, t.world = { s.world with responses := s.world.responses ++ [r] })) ∧
    (agentOf i = .src →
      t.block = { s.block with
        bin := t.block.bin, latThr := t.block.latThr, latRate := t.block.latRate
        latLog2n := t.block.latLog2n, bestMag := t.block.bestMag, bestBin := t.block.bestBin
        lastFreq := t.block.lastFreq, lastAmp := t.block.lastAmp, lastBin := t.block.lastBin
        lastDead := t.block.lastDead, pvalid := t.block.pvalid, fifo := t.block.fifo } ∧
      (t.block.fifo = s.block.fifo ∨ ∃ p, t.block.fifo = s.block.fifo ++ [p]) ∧
      t.world = s.world) ∧
    (agentOf i = .trk →
      t.block = { s.block with
        fifo := t.block.fifo, trk := t.block.trk, outq := t.block.outq } ∧
      (t.block.fifo = s.block.fifo ∨ ∃ p, s.block.fifo = p :: t.block.fifo) ∧
      (∃ new, t.block.outq = s.block.outq ++ new) ∧
      t.world = s.world) ∧
    (agentOf i = .sink →
      t.block = { s.block with
        outq := t.block.outq, fault := t.block.fault, cause := t.block.cause
        faultMsg := t.block.faultMsg } ∧
      (∃ gone, s.block.outq = gone ++ t.block.outq) ∧
      t.world = { s.world with trace := t.world.trace })

/-- 00_scope.md R5, 10_state.md R20: the parameters are no state. The model holds them in State (log 5), and no
step changes them. -/
def Obligations.ParametersNeverChange : Prop :=
  ∀ (s t : State), step s = .next t → t.block.params = s.block.params

/-- 10_state.md R22: what the bin counter does: an accepted beat advances it or wraps it at the frame's
end, a reset sets it to 0, and no other event changes it; BIN_INDEX shows it. That exec answers a state at all
for a beat that is not enabled is the model's choice (log 4). -/
def Obligations.BinCounterFollowsBeatsAndResets : Prop :=
  ∀ (i : Instr) (s t : State), s.block.Inv → exec i s = .next t →
    (∀ m, i = .sinBeat m → s.block.beatEnabled = true →
      (s.block.bin.toNat + 1 <
          (if s.block.bin = 0 then 2 ^ s.block.cfgLog2n.toNat else 2 ^ s.block.latLog2n.toNat) →
        t.block.bin.toNat = s.block.bin.toNat + 1) ∧
      (s.block.bin.toNat + 1 =
          (if s.block.bin = 0 then 2 ^ s.block.cfgLog2n.toNat else 2 ^ s.block.latLog2n.toNat) →
        t.block.bin = 0)) ∧
    (∀ m, i = .sinBeat m → s.block.beatEnabled = false → t.block.bin = s.block.bin) ∧
    (resets i → t.block.bin = 0) ∧
    (¬ resets i → (∀ m, i ≠ .sinBeat m) → t.block.bin = s.block.bin) ∧
    t.block.bin.toNat < 2 ^ t.block.latLog2n.toNat ∧
    exec .rdBinIndex t = .next (t.respond (.read (BitVec.ofNat 32 t.block.bin.toNat) .okay))

/-- 10_state.md R38, 20_memory.md R69: the Pitch FIFO is first in, first out: beats and injections push at
the tail, the tracker's step pops the head, a reset empties it, nothing else touches it. -/
def Obligations.FifoIsFirstInFirstOut : Prop :=
  ∀ (i : Instr) (s t : State), exec i s = .next t →
    t.block.fifo = s.block.fifo ∨
    (∃ p, t.block.fifo = s.block.fifo ++ [p] ∧ ((∃ m, i = .sinBeat m) ∨ ∃ d, i = .ctrlInject d)) ∨
    (∃ p, s.block.fifo = p :: t.block.fifo ∧ i = .trackStep) ∨
    (t.block.fifo = [] ∧ resets i)

/-- 20_memory.md R69, 00_scope.md R9, 10_state.md R42, R43: messages reach SINK in the order they were
appended, at most two a step and only by TrackStep; the trace changes only as SINK takes the head of outq, by
SinkAccept or as the message itself crosses the port (log 7), no reset changing it. -/
def Obligations.MessagesKeepTheirOrder : Prop :=
  ∀ (i : Instr) (s t : State), exec i s = .next t →
    (¬ resets i → i ≠ .sinkError → ∃ new, t.emitted = s.emitted ++ new ∧ new.length ≤ 2 ∧
      (new ≠ [] → i = .trackStep)) ∧
    (t.world.trace = s.world.trace ∨
      ((i = .sinkAccept ∨ (∃ n, i = .noteOn n) ∨ ∃ n, i = .noteOff n) ∧
        ∃ m, s.block.outq = m :: t.block.outq ∧ t.world.trace = s.world.trace ++ [m]))

/-- 10_state.md R39, R42, 42_note_tracker.md R186: whatever the operation, but for a reset, the messages it
appends to outq lead from the note the tracker's state named before to the one it names after: a NOTE_ON when
no note is on, the NOTE_OFF of the note that is on, or both; what appends nothing, SinkError among it, leaves
PLAYING and the note. Only TrackStep appends; after a reset the tracker is Idle. -/
def Obligations.TrackerStateFollowsItsMessages : Prop :=
  ∀ (i : Instr) (s t : State), exec i s = .next t →
    (resets i → t.block.trk = .idle ∧ t.block.outq = []) ∧
    (¬ resets i → ∃ new, soundingAfter s.block.trk.note new = some t.block.trk.note ∧
      (new ≠ [] → i = .trackStep ∧ s.block.outq = [] ∧ t.block.outq = new) ∧
      (i = .sinkError → new = [] ∧ t.block.trk = s.block.trk) ∧
      (i ≠ .sinkError → t.emitted = s.emitted ++ new) ∧
      (i ≠ .trackStep → t.block.trk = s.block.trk))

/-! ## Invariants -/

/-- The state after reset meets the invariant whatever the legal parameters are, and its messages pair. -/
def Obligations.ResetStatesMeetTheInvariants : Prop :=
  (∀ p : Params, p.legal = true → (Block.reset p).Inv) ∧ State.reset.block.Inv ∧ State.reset.Paired

/-- Every step keeps the block's invariant. -/
def Obligations.EveryStepKeepsTheInvariant : Prop :=
  ∀ s t : State, s.block.Inv → step s = .next t → t.block.Inv

/-- 10_state.md R39, 42_note_tracker.md R186, R187: what is appended to outq alternates NOTE_ON and the
NOTE_OFF of its note, and agrees with the tracker's state, over every step that is no SinkError (R187) and no
reset of a block that is not drained (log 18). -/
def Obligations.StepsKeepMessagesPaired : Prop :=
  ∀ s t : State, s.Paired → (∀ i, s.nextEvent = some i → keepsPairing i s.block = true) →
    step s = .next t → t.Paired

/-! ## Steps and runs -/

/-- 00_scope.md R8: a step runs the operation the word of the next turn decodes to, on the state with that
word and turn taken; an operation put before everything else is the next one run. That the order of the
events stands in State, and how an operation is put first, is the model's choice (log 1, log 2, log 8). -/
def Obligations.StepRunsTheDecodedOperation : Prop :=
  (∀ (s u : State) (p : PortWord) (i : Instr), s.fetch = some (p, u) → decode p = .ok i →
    eventEnabled i s.block = true → step s = exec i u) ∧
  (∀ (s : State) (ts : List Turn) (h : HostWord) (hs : List HostWord),
    s.world.turns = .host :: ts → s.world.hostIn = h :: hs →
    s.fetch = some (.host h, { s with world := { s.world with turns := ts, hostIn := hs } })) ∧
  (∀ (s : State) (ts : List Turn) (m : Word) (ms : List Word),
    s.world.turns = .spectrum :: ts → s.world.srcIn = m :: ms →
    s.fetch = some (.spectrum m, { s with world := { s.world with turns := ts, srcIn := ms } })) ∧
  (∀ (s : State) (ts : List Turn) (e : EventOp), s.world.turns = .event e :: ts →
    s.fetch = some (.event e, { s with world := { s.world with turns := ts } })) ∧
  (∀ (s : State) (ts : List Turn) (wd : BitVec 24), s.world.turns = .message wd :: ts →
    s.fetch = some (.midi wd, { s with world := { s.world with turns := ts } })) ∧
  (∀ (s : State) (nbits w : Nat) (i : Instr), decodeTableWord nbits w = some i →
    eventEnabled i s.block = true → step (s.withFetchWord nbits w) = exec i s)

/-- 00_scope.md R8, 41_peak_picker.md R150: the turn of an agent whose event is not enabled, or that has
nothing to give, goes by; the agent keeps what it had. That such a turn is a step at all is the model's choice
(log 4). -/
def Obligations.DisabledTurnsGoBy : Prop :=
  (∀ (s u : State) (p : PortWord) (i : Instr), s.fetch = some (p, u) → decode p = .ok i →
    eventEnabled i s.block = false →
    step s = .next { s with world := { s.world with turns := s.world.turns.tail } }) ∧
  (∀ s : State, s.fetch = none →
    step s = .next { s with world := { s.world with turns := s.world.turns.tail } })

/-- 41_peak_picker.md R150, 70_reset_and_hazards.md R239: with the FIFO full the last beat of a frame waits
with SRC, and is taken after the tracker's step has popped a record. The turns are the model's (log 1,
log 4). -/
def Obligations.WaitingBeatIsTakenAfterAPop : Prop :=
  ∀ (s : State) (p : Pitch) (rest : List Pitch) (m : Word) (ms : List Word) (ts : List Turn),
    s.block.fault = false → s.block.outq = [] → s.block.fifo = p :: rest →
    s.block.fifo.length = s.block.params.fifoDepth → s.block.bin ≠ 0 →
    s.block.bin.toNat = 2 ^ s.block.latLog2n.toNat - 1 →
    s.world.turns = [.spectrum, .event .trackStep, .spectrum] ++ ts → s.world.srcIn = m :: ms →
    (∃ t1, step s = .next t1 ∧ t1.block = s.block ∧ t1.world.srcIn = m :: ms) ∧
    ∃ t, Host.Core.run core 3 s = .next t ∧ t.block = s.block.trackStep.beat m ∧
      t.block.bin = 0 ∧ t.block.fifo.length = s.block.params.fifoDepth ∧
      t.world = { s.world with turns := ts, srcIn := ms }

/-- 30_encoding.md R91, R92: a script that names a run, put before everything else, runs line by line: after
as many steps as it has lines the machine is in the state the script ends in. A script with
pseudo-operations runs as the lines it stands for, and `deliver`, where the tracker may step, is that step
and one acceptance of each message the step appended, at most 2 of them: all of them reach the trace in
order and outq ends empty. How a script is loaded is the model's choice (log 2). -/
def Obligations.ScriptsRunAsPlayed : Prop :=
  (∀ (s t : State) (ls : List ScriptLine), s.play ls = some t →
    Host.Core.run core ls.length (s.load ls) = .next t) ∧
  (∀ (s t : State) (is : List ScriptItem), s.playItems is = some t →
    ∃ ls, s.expand is = some ls ∧ Host.Core.run core ls.length (s.load ls) = .next t) ∧
  ∀ s : State, s.block.fault = false → s.block.outq = [] → s.block.fifo ≠ [] →
    s.block.trackStep.outq.length ≤ 2 ∧
    s.expand [.deliver] =
      some (.step :: List.replicate s.block.trackStep.outq.length .accept) ∧
    s.playItems [.deliver] =
      some { block := { s.block.trackStep with outq := [] }
             world := { s.world with trace := s.world.trace ++ s.block.trackStep.outq } }

/-- 70_reset_and_hazards.md R236, R245: the block is drained exactly when STATUS shows FAULT 0, FIFO_EMPTY 1,
PLAYING 0 and TRK_BUSY 0, and in a drained block no event of TRK or SINK is enabled (that exec of one then
answers the same state is the model's choice, log 4). -/
def Obligations.DrainedBlocksAreQuiet : Prop :=
  ∀ s : State,
    (s.block.drained = true ↔
      s.block.statusWord.getLsbD 0 = false ∧ s.block.statusWord.getLsbD 2 = true ∧
      s.block.statusWord.getLsbD 4 = false ∧ s.block.statusWord.getLsbD 5 = false) ∧
    (s.block.drained = true →
      exec .trackStep s = .next s ∧ exec .sinkAccept s = .next s ∧ exec .sinkError s = .next s)

/-- 70_reset_and_hazards.md R236, 42_note_tracker.md R181: from a block that holds nothing but a sounding
note, the pseudo-operations release and deliver send its NOTE_OFF and leave the block drained; with no note
sounding they send nothing. -/
def Obligations.ReleaseSilencesTheBlock : Prop :=
  ∀ s : State, s.block.fault = false → s.block.fifo = [] → s.block.outq = [] →
    1 ≤ s.block.params.fifoDepth →
    (∀ n a, s.block.trk = .playing n a →
      ∃ t, s.playItems [.release, .deliver] = some t ∧ t.block.drained = true ∧
        t.world.trace = s.world.trace ++ [⟨0x80, n.setWidth 8, 0x64⟩] ∧
        t.block.injDrop = s.block.injDrop) ∧
    (s.block.trk = .idle →
      ∃ t, s.playItems [.release, .deliver] = some t ∧ t.block.drained = true ∧
        t.world.trace = s.world.trace ∧ t.block.injDrop = s.block.injDrop)
end

