-- ==== Sys2Proof/Laws/Binary32.lean ====
section
/-! SUPPORT. The order of binary32 values, and the value of a pattern as a strictly rising function of the
pattern. -/

namespace Sys2Proof.Machine

/-! ## The ordered comparisons -/

theorem Value.le_trans {x y z : Value} (hxy : x.le y = true) (hyz : y.le z = true) : x.le z = true := by
  rcases x with _ | ⟨_ | _⟩ | x <;> rcases y with _ | ⟨_ | _⟩ | y <;>
    rcases z with _ | ⟨_ | _⟩ | z <;> simp_all [Value.le]
  omega

theorem Value.lt_of_lt_of_le {x y z : Value} (hxy : x.lt y = true) (hyz : y.le z = true) :
    x.lt z = true := by
  cases x <;> cases y <;> cases z <;> simp_all [Value.le, Value.lt]
  omega

theorem Value.lt_of_le_of_lt {x y z : Value} (hxy : x.le y = true) (hyz : y.lt z = true) :
    x.lt z = true := by
  cases x <;> cases y <;> cases z <;> simp_all [Value.le, Value.lt]
  omega

theorem Value.le_of_lt {x y : Value} (h : x.lt y = true) : x.le y = true := by
  cases x <;> cases y <;> simp_all [Value.le, Value.lt]
  omega

@[simp] theorem Value.lt_irrefl (x : Value) : x.lt x = false := by
  rcases x with _ | x | x <;> simp [Value.lt]

/-- Two values that are no NaN are ordered. -/
theorem Value.le_of_not_lt {x y : Value} (hx : x ≠ .nan) (hy : y ≠ .nan) (h : x.lt y = false) :
    y.le x = true := by
  rcases x with _ | ⟨_ | _⟩ | x <;> rcases y with _ | ⟨_ | _⟩ | y <;> simp_all [Value.le, Value.lt]

theorem Value.ne_nan_of_lt {x y : Value} (h : x.lt y = true) : x ≠ .nan ∧ y ≠ .nan := by
  rcases x with _ | x | x <;> rcases y with _ | y | y <;> simp_all [Value.lt]

theorem Value.ne_nan_of_le {x y : Value} (h : x.le y = true) : x ≠ .nan ∧ y ≠ .nan := by
  rcases x with _ | x | x <;> rcases y with _ | y | y <;> simp_all [Value.le]

theorem gt_irrefl (a : Word) : gt a a = false := Value.lt_irrefl _

theorem ge_of_gt {a b : Word} (h : gt a b = true) : ge a b = true := Value.le_of_lt h

theorem ge_trans {a b c : Word} (hab : ge a b = true) (hbc : ge b c = true) : ge a c = true :=
  Value.le_trans hbc hab

theorem gt_of_gt_of_ge {a b c : Word} (hab : gt a b = true) (hbc : ge b c = true) : gt a c = true :=
  Value.lt_of_le_of_lt hbc hab

theorem gt_of_ge_of_gt {a b c : Word} (hab : ge a b = true) (hbc : gt b c = true) : gt a c = true :=
  Value.lt_of_lt_of_le hbc hab

theorem le_eq_ge (a b : Word) : le a b = ge b a := rfl

/-! ## Patterns and values -/

/-- The units of the pattern p taken as a number, sign aside. -/
def patternUnits (p : Nat) : Nat := magnitudeUnits (p / 2 ^ 23) (p % 2 ^ 23)

theorem patternUnits_lt_succ (p : Nat) : patternUnits p < patternUnits (p + 1) := by
  unfold patternUnits magnitudeUnits
  have hp := Nat.div_add_mod p (2 ^ 23)
  have hm := Nat.mod_lt p (y := 2 ^ 23) (by norm_num)
  by_cases hc : p % 2 ^ 23 + 1 = 2 ^ 23
  · have hq : p + 1 = (p / 2 ^ 23 + 1) * 2 ^ 23 := by
      rw [Nat.add_mul, one_mul]; omega
    rw [hq, Nat.mul_div_cancel _ (by norm_num), Nat.mul_mod_left]
    rcases Nat.eq_zero_or_pos (p / 2 ^ 23) with h0 | h0
    · rw [h0, if_pos rfl, if_neg (by norm_num)]; omega
    · obtain ⟨e, he⟩ : ∃ e, p / 2 ^ 23 = e + 1 := ⟨_, (Nat.succ_pred_eq_of_pos h0).symm⟩
      rw [he]
      simp only [Nat.add_eq_zero_iff, one_ne_zero, and_false, if_false, Nat.add_sub_cancel, Nat.add_zero]
      rw [pow_succ 2 e]
      have : 0 < 2 ^ e := by positivity
      have h2 : 2 ^ 23 + p % 2 ^ 23 < 2 ^ 23 * 2 := by omega
      calc (2 ^ 23 + p % 2 ^ 23) * 2 ^ e < (2 ^ 23 * 2) * 2 ^ e :=
            Nat.mul_lt_mul_of_pos_right h2 this
        _ = 2 ^ 23 * (2 ^ e * 2) := by ring
  · have hd : (p + 1) / 2 ^ 23 = p / 2 ^ 23 := by omega
    have hr : (p + 1) % 2 ^ 23 = p % 2 ^ 23 + 1 := by omega
    rw [hd, hr]
    split
    · omega
    · exact Nat.mul_lt_mul_of_pos_right (by omega) (by positivity)

theorem patternUnits_strictMono : StrictMono patternUnits :=
  strictMono_nat_of_lt_succ patternUnits_lt_succ

theorem fields_of_nonneg {b : Word} (h : b.msb = false) :
    exponentField b = b.toNat / 2 ^ 23 ∧ fractionField b = b.toNat % 2 ^ 23 := by
  have hlt : b.toNat < 2 ^ 31 := by
    have := BitVec.msb_eq_false_iff_two_mul_lt.1 h; omega
  constructor
  · simp only [exponentField, BitVec.extractLsb'_toNat, Nat.shiftRight_eq_div_pow]
    apply Nat.mod_eq_of_lt
    omega
  · simp [fractionField, BitVec.extractLsb'_toNat]

/-- The value of a finite pattern without its sign bit. -/
theorem F_of_nonneg {b : Word} (h : b.msb = false) (hf : b.toNat < 0x7F800000) :
    F b = .finite (patternUnits b.toNat) := by
  obtain ⟨he, hr⟩ := fields_of_nonneg h
  have hne : b.toNat / 2 ^ 23 ≠ 255 := by omega
  rw [F, he, hr, if_neg hne, h]
  rfl

theorem F_plusZero : F plusZero = .finite 0 := by decide

end Sys2Proof.Machine
end

