-- ==== Sys2Proof/Laws/Decode.lean ====
section
/-! SUPPORT. How the opcode table is searched: outside CTRL writes the data plays no part. -/

namespace Sys2Proof

/-- Only the CTRL write rows test the data; every other row has no data mask. -/
theorem hbRows_data : ∀ r ∈ hbRows,
    (r.dataMask = 0 ∧ r.dataMatch = 0) ∨ (r.mask = 0x7FF ∧ r.pattern = 0x500) := by
  decide

/-- A row hits a header that is no CTRL write by the header alone. -/
theorem hits_of_not_ctrl {h : BitVec 11} (hne : h ≠ 0x500) (d : Word) {r : HbRow} (hr : r ∈ hbRows) :
    r.hits ⟨h, d⟩ = (h &&& r.mask == r.pattern) := by
  rcases hbRows_data r hr with ⟨hm, hp⟩ | ⟨hm, hp⟩
  · simp [HbRow.hits, hm, hp]
  · have hall : (h &&& 0x7FF#11 == 0x500#11) = false := by
      rw [show h &&& 0x7FF#11 = h from BitVec.and_allOnes (x := h)]
      exact beq_eq_false_iff_ne.2 hne
    unfold HbRow.hits
    rw [hm, hp]
    exact (congrArg (· && _) hall).trans hall.symm

/-- The operation of a header that is no CTRL write: the first row that matches the header. -/
theorem decodeHost_of_not_ctrl {h : BitVec 11} (hne : h ≠ 0x500) (d : Word) :
    decodeHost ⟨h, d⟩ =
      (hbRows.find? fun r => h &&& r.mask == r.pattern).map fun r => r.build h d := by
  have hfind : ∀ l : List HbRow, (∀ r ∈ l, r ∈ hbRows) →
      l.find? (fun r => r.hits ⟨h, d⟩) = l.find? (fun r => h &&& r.mask == r.pattern) := by
    intro l
    induction l with
    | nil => intro _; rfl
    | cons r l ih =>
      intro hl
      simp only [List.find?_cons, hits_of_not_ctrl hne d (hl r (by simp)),
        ih fun x hx => hl x (by simp [hx])]
  simp only [decodeHost, hfind hbRows fun _ hr => hr]

/-- The same for `decode`. -/
theorem decode_host_of_find {h : BitVec 11} {i : Instr} (hne : h ≠ 0x500) (d : Word)
    (hi : ((hbRows.find? fun r => h &&& r.mask == r.pattern).map fun r => r.build h d) = some i) :
    decode (.host ⟨h, d⟩) = .ok i := by
  simp only [decode, decodeHost_of_not_ctrl hne, hi]

/-- Bits 1 and 0 of a word as a number. -/
theorem low_bits_toNat (d : Word) :
    (d &&& 3#32).toNat = 2 * (d.getLsbD 1).toNat + (d.getLsbD 0).toNat := by
  have h0 := Nat.toNat_testBit d.toNat 0
  have h1 := Nat.toNat_testBit d.toNat 1
  rw [BitVec.toNat_and, show (3#32).toNat = 2 ^ 2 - 1 from rfl, Nat.and_two_pow_sub_one_eq_mod]
  simp only [BitVec.getLsbD] at *
  omega

/-- The test of a CTRL row on bit 0 of the data. -/
theorem and_one_beq (d : Word) : (d &&& 1#32 == 1#32) = d.getLsbD 0 := by
  have h0 := Nat.toNat_testBit d.toNat 0
  have h : (d &&& 1#32).toNat = (d.getLsbD 0).toNat := by
    rw [BitVec.toNat_and, show (1#32).toNat = 2 ^ 1 - 1 from rfl, Nat.and_two_pow_sub_one_eq_mod]
    simp only [BitVec.getLsbD] at *
    omega
  rw [Bool.eq_iff_iff, beq_iff_eq, ← BitVec.toNat_inj, h]
  cases d.getLsbD 0 <;> simp

/-- The test of a CTRL row on bits 1 and 0 of the data. -/
theorem and_three_beq (d : Word) (b1 b0 : Bool) :
    (d &&& 3#32 == BitVec.ofNat 32 (2 * b1.toNat + b0.toNat)) =
      (d.getLsbD 1 == b1 && d.getLsbD 0 == b0) := by
  have h := low_bits_toNat d
  rw [Bool.eq_iff_iff, beq_iff_eq, ← BitVec.toNat_inj, h]
  cases d.getLsbD 0 <;> cases d.getLsbD 1 <;> cases b0 <;> cases b1 <;> simp

/-- A CTRL write is split by the two low bits of its data (R104). -/
theorem decode_ctrl_write (d : Word) :
    decode (.host ⟨0x500, d⟩) =
      .ok (if d.getLsbD 0 then .ctrlSrst d else if d.getLsbD 1 then .ctrlInject d else .ctrlNop d) := by
  have h1 : (((0x500 : BitVec 11) &&& 0x7FF == 0x500) && (d &&& 0x00000001 == 0x00000001)) =
      d.getLsbD 0 := and_one_beq d
  have h2 : (((0x500 : BitVec 11) &&& 0x7FF == 0x500) && (d &&& 0x00000003 == 0x00000002)) =
      (d.getLsbD 1 == true && d.getLsbD 0 == false) := and_three_beq d true false
  have h3 : (((0x500 : BitVec 11) &&& 0x7FF == 0x500) && (d &&& 0x00000003 == 0x00000000)) =
      (d.getLsbD 1 == false && d.getLsbD 0 == false) := and_three_beq d false false
  have skip : hbRows.find? (fun r => r.hits ⟨0x500, d⟩) =
      (hbRows.drop 5).find? (fun r => r.hits ⟨0x500, d⟩) := by
    have hnone : (hbRows.take 5).find? (fun r => r.hits ⟨0x500, d⟩) = none := by
      have hmask : ∀ r ∈ hbRows.take 5, (0x500 &&& r.mask == r.pattern) = false := by decide
      rw [List.find?_eq_none]
      intro r hr
      simp only [HbRow.hits, hmask r hr, Bool.false_and, Bool.false_eq_true, not_false_eq_true]
    rw [← List.take_append_drop 5 hbRows, List.find?_append, hnone, Option.none_or,
      List.take_append_drop]
  simp only [decode, decodeHost, skip]
  simp only [hbRows, busErrRows, controlRows, List.cons_append, List.nil_append, List.drop_succ_cons,
    List.drop_zero, List.find?_cons, HbRow.hits, h1, h2, h3]
  cases d.getLsbD 0 <;> cases d.getLsbD 1 <;> rfl

end Sys2Proof
end

