-- ==== Sys2Proof/Laws/State.lean ====
section
/-! SUPPORT. One lemma per field per named update of the state, each true by rfl. -/

namespace Sys2Proof.Machine

/-! ## Block.push -/

@[simp] theorem Block.push_params (b : Block) (p : Pitch) : (b.push p).params = b.params := rfl
@[simp] theorem Block.push_cfgThr (b : Block) (p : Pitch) : (b.push p).cfgThr = b.cfgThr := rfl
@[simp] theorem Block.push_cfgRate (b : Block) (p : Pitch) : (b.push p).cfgRate = b.cfgRate := rfl
@[simp] theorem Block.push_cfgLog2n (b : Block) (p : Pitch) : (b.push p).cfgLog2n = b.cfgLog2n := rfl
@[simp] theorem Block.push_injFreq (b : Block) (p : Pitch) : (b.push p).injFreq = b.injFreq := rfl
@[simp] theorem Block.push_injAmp (b : Block) (p : Pitch) : (b.push p).injAmp = b.injAmp := rfl
@[simp] theorem Block.push_bin (b : Block) (p : Pitch) : (b.push p).bin = b.bin := rfl
@[simp] theorem Block.push_latThr (b : Block) (p : Pitch) : (b.push p).latThr = b.latThr := rfl
@[simp] theorem Block.push_latRate (b : Block) (p : Pitch) : (b.push p).latRate = b.latRate := rfl
@[simp] theorem Block.push_latLog2n (b : Block) (p : Pitch) : (b.push p).latLog2n = b.latLog2n := rfl
@[simp] theorem Block.push_bestMag (b : Block) (p : Pitch) : (b.push p).bestMag = b.bestMag := rfl
@[simp] theorem Block.push_bestBin (b : Block) (p : Pitch) : (b.push p).bestBin = b.bestBin := rfl
@[simp] theorem Block.push_lastFreq (b : Block) (p : Pitch) : (b.push p).lastFreq = b.lastFreq := rfl
@[simp] theorem Block.push_lastAmp (b : Block) (p : Pitch) : (b.push p).lastAmp = b.lastAmp := rfl
@[simp] theorem Block.push_lastBin (b : Block) (p : Pitch) : (b.push p).lastBin = b.lastBin := rfl
@[simp] theorem Block.push_lastDead (b : Block) (p : Pitch) : (b.push p).lastDead = b.lastDead := rfl
@[simp] theorem Block.push_pvalid (b : Block) (p : Pitch) : (b.push p).pvalid = b.pvalid := rfl
@[simp] theorem Block.push_fifo (b : Block) (p : Pitch) : (b.push p).fifo = b.fifo ++ [p] := rfl
@[simp] theorem Block.push_trk (b : Block) (p : Pitch) : (b.push p).trk = b.trk := rfl
@[simp] theorem Block.push_outq (b : Block) (p : Pitch) : (b.push p).outq = b.outq := rfl
@[simp] theorem Block.push_fault (b : Block) (p : Pitch) : (b.push p).fault = b.fault := rfl
@[simp] theorem Block.push_cause (b : Block) (p : Pitch) : (b.push p).cause = b.cause := rfl
@[simp] theorem Block.push_faultMsg (b : Block) (p : Pitch) : (b.push p).faultMsg = b.faultMsg := rfl
@[simp] theorem Block.push_injDrop (b : Block) (p : Pitch) : (b.push p).injDrop = b.injDrop := rfl

/-! ## Block.emit -/

@[simp] theorem Block.emit_params (b : Block) (m : Midi) : (b.emit m).params = b.params := rfl
@[simp] theorem Block.emit_cfgThr (b : Block) (m : Midi) : (b.emit m).cfgThr = b.cfgThr := rfl
@[simp] theorem Block.emit_cfgRate (b : Block) (m : Midi) : (b.emit m).cfgRate = b.cfgRate := rfl
@[simp] theorem Block.emit_cfgLog2n (b : Block) (m : Midi) : (b.emit m).cfgLog2n = b.cfgLog2n := rfl
@[simp] theorem Block.emit_injFreq (b : Block) (m : Midi) : (b.emit m).injFreq = b.injFreq := rfl
@[simp] theorem Block.emit_injAmp (b : Block) (m : Midi) : (b.emit m).injAmp = b.injAmp := rfl
@[simp] theorem Block.emit_bin (b : Block) (m : Midi) : (b.emit m).bin = b.bin := rfl
@[simp] theorem Block.emit_latThr (b : Block) (m : Midi) : (b.emit m).latThr = b.latThr := rfl
@[simp] theorem Block.emit_latRate (b : Block) (m : Midi) : (b.emit m).latRate = b.latRate := rfl
@[simp] theorem Block.emit_latLog2n (b : Block) (m : Midi) : (b.emit m).latLog2n = b.latLog2n := rfl
@[simp] theorem Block.emit_bestMag (b : Block) (m : Midi) : (b.emit m).bestMag = b.bestMag := rfl
@[simp] theorem Block.emit_bestBin (b : Block) (m : Midi) : (b.emit m).bestBin = b.bestBin := rfl
@[simp] theorem Block.emit_lastFreq (b : Block) (m : Midi) : (b.emit m).lastFreq = b.lastFreq := rfl
@[simp] theorem Block.emit_lastAmp (b : Block) (m : Midi) : (b.emit m).lastAmp = b.lastAmp := rfl
@[simp] theorem Block.emit_lastBin (b : Block) (m : Midi) : (b.emit m).lastBin = b.lastBin := rfl
@[simp] theorem Block.emit_lastDead (b : Block) (m : Midi) : (b.emit m).lastDead = b.lastDead := rfl
@[simp] theorem Block.emit_pvalid (b : Block) (m : Midi) : (b.emit m).pvalid = b.pvalid := rfl
@[simp] theorem Block.emit_fifo (b : Block) (m : Midi) : (b.emit m).fifo = b.fifo := rfl
@[simp] theorem Block.emit_trk (b : Block) (m : Midi) : (b.emit m).trk = b.trk := rfl
@[simp] theorem Block.emit_outq (b : Block) (m : Midi) : (b.emit m).outq = b.outq ++ [m] := rfl
@[simp] theorem Block.emit_fault (b : Block) (m : Midi) : (b.emit m).fault = b.fault := rfl
@[simp] theorem Block.emit_cause (b : Block) (m : Midi) : (b.emit m).cause = b.cause := rfl
@[simp] theorem Block.emit_faultMsg (b : Block) (m : Midi) : (b.emit m).faultMsg = b.faultMsg := rfl
@[simp] theorem Block.emit_injDrop (b : Block) (m : Midi) : (b.emit m).injDrop = b.injDrop := rfl

/-! ## Block.raiseMidiSendError -/

@[simp] theorem Block.raiseMidiSendError_params (b : Block) (m : Midi) : (b.raiseMidiSendError m).params = b.params := rfl
@[simp] theorem Block.raiseMidiSendError_cfgThr (b : Block) (m : Midi) : (b.raiseMidiSendError m).cfgThr = b.cfgThr := rfl
@[simp] theorem Block.raiseMidiSendError_cfgRate (b : Block) (m : Midi) : (b.raiseMidiSendError m).cfgRate = b.cfgRate := rfl
@[simp] theorem Block.raiseMidiSendError_cfgLog2n (b : Block) (m : Midi) : (b.raiseMidiSendError m).cfgLog2n = b.cfgLog2n := rfl
@[simp] theorem Block.raiseMidiSendError_injFreq (b : Block) (m : Midi) : (b.raiseMidiSendError m).injFreq = b.injFreq := rfl
@[simp] theorem Block.raiseMidiSendError_injAmp (b : Block) (m : Midi) : (b.raiseMidiSendError m).injAmp = b.injAmp := rfl
@[simp] theorem Block.raiseMidiSendError_bin (b : Block) (m : Midi) : (b.raiseMidiSendError m).bin = b.bin := rfl
@[simp] theorem Block.raiseMidiSendError_latThr (b : Block) (m : Midi) : (b.raiseMidiSendError m).latThr = b.latThr := rfl
@[simp] theorem Block.raiseMidiSendError_latRate (b : Block) (m : Midi) : (b.raiseMidiSendError m).latRate = b.latRate := rfl
@[simp] theorem Block.raiseMidiSendError_latLog2n (b : Block) (m : Midi) : (b.raiseMidiSendError m).latLog2n = b.latLog2n := rfl
@[simp] theorem Block.raiseMidiSendError_bestMag (b : Block) (m : Midi) : (b.raiseMidiSendError m).bestMag = b.bestMag := rfl
@[simp] theorem Block.raiseMidiSendError_bestBin (b : Block) (m : Midi) : (b.raiseMidiSendError m).bestBin = b.bestBin := rfl
@[simp] theorem Block.raiseMidiSendError_lastFreq (b : Block) (m : Midi) : (b.raiseMidiSendError m).lastFreq = b.lastFreq := rfl
@[simp] theorem Block.raiseMidiSendError_lastAmp (b : Block) (m : Midi) : (b.raiseMidiSendError m).lastAmp = b.lastAmp := rfl
@[simp] theorem Block.raiseMidiSendError_lastBin (b : Block) (m : Midi) : (b.raiseMidiSendError m).lastBin = b.lastBin := rfl
@[simp] theorem Block.raiseMidiSendError_lastDead (b : Block) (m : Midi) : (b.raiseMidiSendError m).lastDead = b.lastDead := rfl
@[simp] theorem Block.raiseMidiSendError_pvalid (b : Block) (m : Midi) : (b.raiseMidiSendError m).pvalid = b.pvalid := rfl
@[simp] theorem Block.raiseMidiSendError_fifo (b : Block) (m : Midi) : (b.raiseMidiSendError m).fifo = b.fifo := rfl
@[simp] theorem Block.raiseMidiSendError_trk (b : Block) (m : Midi) : (b.raiseMidiSendError m).trk = b.trk := rfl
@[simp] theorem Block.raiseMidiSendError_outq (b : Block) (m : Midi) : (b.raiseMidiSendError m).outq = [] := rfl
@[simp] theorem Block.raiseMidiSendError_fault (b : Block) (m : Midi) : (b.raiseMidiSendError m).fault = true := rfl
@[simp] theorem Block.raiseMidiSendError_cause (b : Block) (m : Midi) : (b.raiseMidiSendError m).cause = causeMidiSendError := rfl
@[simp] theorem Block.raiseMidiSendError_faultMsg (b : Block) (m : Midi) : (b.raiseMidiSendError m).faultMsg = m.wireWord := rfl
@[simp] theorem Block.raiseMidiSendError_injDrop (b : Block) (m : Midi) : (b.raiseMidiSendError m).injDrop = b.injDrop := rfl

/-! ## Block.reset -/

@[simp] theorem Block.reset_params (p : Params) : (Block.reset p).params = p := rfl
@[simp] theorem Block.reset_cfgThr (p : Params) : (Block.reset p).cfgThr = resetThreshold := rfl
@[simp] theorem Block.reset_cfgRate (p : Params) : (Block.reset p).cfgRate = resetSampleRate := rfl
@[simp] theorem Block.reset_cfgLog2n (p : Params) : (Block.reset p).cfgLog2n = resetLog2n := rfl
@[simp] theorem Block.reset_injFreq (p : Params) : (Block.reset p).injFreq = 0 := rfl
@[simp] theorem Block.reset_injAmp (p : Params) : (Block.reset p).injAmp = 0 := rfl
@[simp] theorem Block.reset_bin (p : Params) : (Block.reset p).bin = 0 := rfl
@[simp] theorem Block.reset_latThr (p : Params) : (Block.reset p).latThr = resetThreshold := rfl
@[simp] theorem Block.reset_latRate (p : Params) : (Block.reset p).latRate = resetSampleRate := rfl
@[simp] theorem Block.reset_latLog2n (p : Params) : (Block.reset p).latLog2n = resetLog2n := rfl
@[simp] theorem Block.reset_bestMag (p : Params) : (Block.reset p).bestMag = 0 := rfl
@[simp] theorem Block.reset_bestBin (p : Params) : (Block.reset p).bestBin = 0 := rfl
@[simp] theorem Block.reset_lastFreq (p : Params) : (Block.reset p).lastFreq = 0 := rfl
@[simp] theorem Block.reset_lastAmp (p : Params) : (Block.reset p).lastAmp = 0 := rfl
@[simp] theorem Block.reset_lastBin (p : Params) : (Block.reset p).lastBin = 0 := rfl
@[simp] theorem Block.reset_lastDead (p : Params) : (Block.reset p).lastDead = false := rfl
@[simp] theorem Block.reset_pvalid (p : Params) : (Block.reset p).pvalid = false := rfl
@[simp] theorem Block.reset_fifo (p : Params) : (Block.reset p).fifo = [] := rfl
@[simp] theorem Block.reset_trk (p : Params) : (Block.reset p).trk = .idle := rfl
@[simp] theorem Block.reset_outq (p : Params) : (Block.reset p).outq = [] := rfl
@[simp] theorem Block.reset_fault (p : Params) : (Block.reset p).fault = false := rfl
@[simp] theorem Block.reset_cause (p : Params) : (Block.reset p).cause = 0 := rfl
@[simp] theorem Block.reset_faultMsg (p : Params) : (Block.reset p).faultMsg = 0 := rfl
@[simp] theorem Block.reset_injDrop (p : Params) : (Block.reset p).injDrop = false := rfl

/-! ## Block.hardReset -/

@[simp] theorem Block.hardReset_params (b : Block) : (b.hardReset).params = b.params := rfl
@[simp] theorem Block.hardReset_cfgThr (b : Block) : (b.hardReset).cfgThr = resetThreshold := rfl
@[simp] theorem Block.hardReset_cfgRate (b : Block) : (b.hardReset).cfgRate = resetSampleRate := rfl
@[simp] theorem Block.hardReset_cfgLog2n (b : Block) : (b.hardReset).cfgLog2n = resetLog2n := rfl
@[simp] theorem Block.hardReset_injFreq (b : Block) : (b.hardReset).injFreq = 0 := rfl
@[simp] theorem Block.hardReset_injAmp (b : Block) : (b.hardReset).injAmp = 0 := rfl
@[simp] theorem Block.hardReset_bin (b : Block) : (b.hardReset).bin = 0 := rfl
@[simp] theorem Block.hardReset_latThr (b : Block) : (b.hardReset).latThr = resetThreshold := rfl
@[simp] theorem Block.hardReset_latRate (b : Block) : (b.hardReset).latRate = resetSampleRate := rfl
@[simp] theorem Block.hardReset_latLog2n (b : Block) : (b.hardReset).latLog2n = resetLog2n := rfl
@[simp] theorem Block.hardReset_bestMag (b : Block) : (b.hardReset).bestMag = 0 := rfl
@[simp] theorem Block.hardReset_bestBin (b : Block) : (b.hardReset).bestBin = 0 := rfl
@[simp] theorem Block.hardReset_lastFreq (b : Block) : (b.hardReset).lastFreq = 0 := rfl
@[simp] theorem Block.hardReset_lastAmp (b : Block) : (b.hardReset).lastAmp = 0 := rfl
@[simp] theorem Block.hardReset_lastBin (b : Block) : (b.hardReset).lastBin = 0 := rfl
@[simp] theorem Block.hardReset_lastDead (b : Block) : (b.hardReset).lastDead = false := rfl
@[simp] theorem Block.hardReset_pvalid (b : Block) : (b.hardReset).pvalid = false := rfl
@[simp] theorem Block.hardReset_fifo (b : Block) : (b.hardReset).fifo = [] := rfl
@[simp] theorem Block.hardReset_trk (b : Block) : (b.hardReset).trk = .idle := rfl
@[simp] theorem Block.hardReset_outq (b : Block) : (b.hardReset).outq = [] := rfl
@[simp] theorem Block.hardReset_fault (b : Block) : (b.hardReset).fault = false := rfl
@[simp] theorem Block.hardReset_cause (b : Block) : (b.hardReset).cause = 0 := rfl
@[simp] theorem Block.hardReset_faultMsg (b : Block) : (b.hardReset).faultMsg = 0 := rfl
@[simp] theorem Block.hardReset_injDrop (b : Block) : (b.hardReset).injDrop = false := rfl

/-! ## Block.softReset -/

@[simp] theorem Block.softReset_params (b : Block) : (b.softReset).params = b.params := rfl
@[simp] theorem Block.softReset_cfgThr (b : Block) : (b.softReset).cfgThr = b.cfgThr := rfl
@[simp] theorem Block.softReset_cfgRate (b : Block) : (b.softReset).cfgRate = b.cfgRate := rfl
@[simp] theorem Block.softReset_cfgLog2n (b : Block) : (b.softReset).cfgLog2n = b.cfgLog2n := rfl
@[simp] theorem Block.softReset_injFreq (b : Block) : (b.softReset).injFreq = b.injFreq := rfl
@[simp] theorem Block.softReset_injAmp (b : Block) : (b.softReset).injAmp = b.injAmp := rfl
@[simp] theorem Block.softReset_bin (b : Block) : (b.softReset).bin = 0 := rfl
@[simp] theorem Block.softReset_latThr (b : Block) : (b.softReset).latThr = b.cfgThr := rfl
@[simp] theorem Block.softReset_latRate (b : Block) : (b.softReset).latRate = b.cfgRate := rfl
@[simp] theorem Block.softReset_latLog2n (b : Block) : (b.softReset).latLog2n = b.cfgLog2n := rfl
@[simp] theorem Block.softReset_bestMag (b : Block) : (b.softReset).bestMag = 0 := rfl
@[simp] theorem Block.softReset_bestBin (b : Block) : (b.softReset).bestBin = 0 := rfl
@[simp] theorem Block.softReset_lastFreq (b : Block) : (b.softReset).lastFreq = 0 := rfl
@[simp] theorem Block.softReset_lastAmp (b : Block) : (b.softReset).lastAmp = 0 := rfl
@[simp] theorem Block.softReset_lastBin (b : Block) : (b.softReset).lastBin = 0 := rfl
@[simp] theorem Block.softReset_lastDead (b : Block) : (b.softReset).lastDead = false := rfl
@[simp] theorem Block.softReset_pvalid (b : Block) : (b.softReset).pvalid = false := rfl
@[simp] theorem Block.softReset_fifo (b : Block) : (b.softReset).fifo = [] := rfl
@[simp] theorem Block.softReset_trk (b : Block) : (b.softReset).trk = .idle := rfl
@[simp] theorem Block.softReset_outq (b : Block) : (b.softReset).outq = [] := rfl
@[simp] theorem Block.softReset_fault (b : Block) : (b.softReset).fault = false := rfl
@[simp] theorem Block.softReset_cause (b : Block) : (b.softReset).cause = 0 := rfl
@[simp] theorem Block.softReset_faultMsg (b : Block) : (b.softReset).faultMsg = 0 := rfl
@[simp] theorem Block.softReset_injDrop (b : Block) : (b.softReset).injDrop = false := rfl

/-! ## Block.frameEnd -/

@[simp] theorem Block.frameEnd_params (b : Block) : (b.frameEnd).params = b.params := rfl
@[simp] theorem Block.frameEnd_cfgThr (b : Block) : (b.frameEnd).cfgThr = b.cfgThr := rfl
@[simp] theorem Block.frameEnd_cfgRate (b : Block) : (b.frameEnd).cfgRate = b.cfgRate := rfl
@[simp] theorem Block.frameEnd_cfgLog2n (b : Block) : (b.frameEnd).cfgLog2n = b.cfgLog2n := rfl
@[simp] theorem Block.frameEnd_injFreq (b : Block) : (b.frameEnd).injFreq = b.injFreq := rfl
@[simp] theorem Block.frameEnd_injAmp (b : Block) : (b.frameEnd).injAmp = b.injAmp := rfl
@[simp] theorem Block.frameEnd_bin (b : Block) : (b.frameEnd).bin = 0 := rfl
@[simp] theorem Block.frameEnd_latThr (b : Block) : (b.frameEnd).latThr = b.latThr := rfl
@[simp] theorem Block.frameEnd_latRate (b : Block) : (b.frameEnd).latRate = b.latRate := rfl
@[simp] theorem Block.frameEnd_latLog2n (b : Block) : (b.frameEnd).latLog2n = b.latLog2n := rfl
@[simp] theorem Block.frameEnd_bestMag (b : Block) : (b.frameEnd).bestMag = b.bestMag := rfl
@[simp] theorem Block.frameEnd_bestBin (b : Block) : (b.frameEnd).bestBin = b.bestBin := rfl
@[simp] theorem Block.frameEnd_lastFreq (b : Block) : (b.frameEnd).lastFreq = b.framePitch.freq := rfl
@[simp] theorem Block.frameEnd_lastAmp (b : Block) : (b.frameEnd).lastAmp = b.framePitch.amp := rfl
@[simp] theorem Block.frameEnd_lastBin (b : Block) : (b.frameEnd).lastBin = b.bestBin := rfl
@[simp] theorem Block.frameEnd_lastDead (b : Block) : (b.frameEnd).lastDead = b.framePitch.dead := rfl
@[simp] theorem Block.frameEnd_pvalid (b : Block) : (b.frameEnd).pvalid = true := rfl
@[simp] theorem Block.frameEnd_fifo (b : Block) : (b.frameEnd).fifo = b.fifo ++ [b.framePitch] := rfl
@[simp] theorem Block.frameEnd_trk (b : Block) : (b.frameEnd).trk = b.trk := rfl
@[simp] theorem Block.frameEnd_outq (b : Block) : (b.frameEnd).outq = b.outq := rfl
@[simp] theorem Block.frameEnd_fault (b : Block) : (b.frameEnd).fault = b.fault := rfl
@[simp] theorem Block.frameEnd_cause (b : Block) : (b.frameEnd).cause = b.cause := rfl
@[simp] theorem Block.frameEnd_faultMsg (b : Block) : (b.frameEnd).faultMsg = b.faultMsg := rfl
@[simp] theorem Block.frameEnd_injDrop (b : Block) : (b.frameEnd).injDrop = b.injDrop := rfl

/-! ## State.withBlock -/

@[simp] theorem State.withBlock_block (s : State) (b : Block) : (s.withBlock b).block = b := rfl
@[simp] theorem State.withBlock_world (s : State) (b : Block) : (s.withBlock b).world = s.world := rfl

/-! ## State.respond -/

@[simp] theorem State.respond_block (s : State) (r : BusResult) : (s.respond r).block = s.block := rfl
@[simp] theorem State.respond_trace (s : State) (r : BusResult) : (s.respond r).world.trace = s.world.trace := rfl
@[simp] theorem State.respond_responses (s : State) (r : BusResult) : (s.respond r).world.responses = s.world.responses ++ [r] := rfl
@[simp] theorem State.respond_turns (s : State) (r : BusResult) : (s.respond r).world.turns = s.world.turns := rfl
@[simp] theorem State.respond_hostIn (s : State) (r : BusResult) : (s.respond r).world.hostIn = s.world.hostIn := rfl
@[simp] theorem State.respond_srcIn (s : State) (r : BusResult) : (s.respond r).world.srcIn = s.world.srcIn := rfl

/-! ## State.deliver -/

@[simp] theorem State.deliver_block (s : State) (m : Midi) : (s.deliver m).block = s.block := rfl
@[simp] theorem State.deliver_trace (s : State) (m : Midi) : (s.deliver m).world.trace = s.world.trace ++ [m] := rfl
@[simp] theorem State.deliver_responses (s : State) (m : Midi) : (s.deliver m).world.responses = s.world.responses := rfl
@[simp] theorem State.deliver_turns (s : State) (m : Midi) : (s.deliver m).world.turns = s.world.turns := rfl
@[simp] theorem State.deliver_hostIn (s : State) (m : Midi) : (s.deliver m).world.hostIn = s.world.hostIn := rfl
@[simp] theorem State.deliver_srcIn (s : State) (m : Midi) : (s.deliver m).world.srcIn = s.world.srcIn := rfl

/-! ## State.passTurn -/

@[simp] theorem State.passTurn_block (s : State) : (s.passTurn).block = s.block := rfl
@[simp] theorem State.passTurn_trace (s : State) : (s.passTurn).world.trace = s.world.trace := rfl
@[simp] theorem State.passTurn_responses (s : State) : (s.passTurn).world.responses = s.world.responses := rfl
@[simp] theorem State.passTurn_turns (s : State) : (s.passTurn).world.turns = s.world.turns.tail := rfl
@[simp] theorem State.passTurn_hostIn (s : State) : (s.passTurn).world.hostIn = s.world.hostIn := rfl
@[simp] theorem State.passTurn_srcIn (s : State) : (s.passTurn).world.srcIn = s.world.srcIn := rfl

@[simp] theorem State.offer_block (s : State) (p : PortWord) : (s.offer p).block = s.block := by
  cases p <;> rfl

end Sys2Proof.Machine
end

