-- ==== Sys2Proof/Laws/Ops.lean ====
section
/-! SUPPORT. For each shared operation one lemma that says once what it does, and one inversion of `exec`
and of `step`, so that later proofs need not unfold them. -/

namespace Sys2Proof.Machine

/-! ## Host answers -/

theorem finishRead_eq (s : State) (w : Word) : finishRead s w = .next (s.respond (.read w .okay)) := rfl

theorem finishWrite_eq (s : State) (b : Block) :
    finishWrite s b = .next ((s.withBlock b).respond (.write .okay)) := rfl

theorem finishBusErr_eq (s : State) (acc : Access) :
    finishBusErr s acc = .next (s.respond (busErrResult acc)) := rfl

theorem agentWaits_eq (s : State) : agentWaits s = .next s := rfl

@[simp] theorem State.withBlock_self (s : State) : s.withBlock s.block = s := rfl

/-! ## The PICKER -/

theorem frameStart_of_active {b : Block} (h : b.bin ≠ 0) : b.frameStart = b := if_neg h

theorem frameStart_at_start {b : Block} (h : b.bin = 0) :
    b.frameStart = { b with
      latThr := b.cfgThr, latRate := b.cfgRate, latLog2n := b.cfgLog2n
      bestMag := plusZero, bestBin := 0 } := if_pos h

@[simp] theorem frameStart_bin (b : Block) : b.frameStart.bin = b.bin := by
  unfold Block.frameStart; split <;> rfl

/-- The comparison of a beat touches the running maximum only. -/
theorem consider_cases (b : Block) (m : Word) :
    (b.consider m = b ∧
      (b.frameSize / 2 ≤ b.bin.toNat ∨ gt m b.latThr = false ∨ gt m b.bestMag = false)) ∨
    (b.consider m = { b with bestMag := m, bestBin := b.bin } ∧
      b.bin.toNat < b.frameSize / 2 ∧ gt m b.latThr = true ∧ gt m b.bestMag = true) := by
  unfold Block.consider
  split
  · rename_i h; exact .inr ⟨rfl, h⟩
  · rename_i h
    refine .inl ⟨rfl, ?_⟩
    by_cases hk : b.bin.toNat < b.frameSize / 2
    · by_cases ht : gt m b.latThr = true
      · exact .inr (.inr (by simpa [hk, ht] using h))
      · exact .inr (.inl (by simpa using ht))
    · exact .inl (by omega)

@[simp] theorem consider_bin (b : Block) (m : Word) : (b.consider m).bin = b.bin := by
  unfold Block.consider; split <;> rfl

@[simp] theorem consider_latLog2n (b : Block) (m : Word) : (b.consider m).latLog2n = b.latLog2n := by
  unfold Block.consider; split <;> rfl

@[simp] theorem consider_frameSize (b : Block) (m : Word) : (b.consider m).frameSize = b.frameSize := by
  simp [Block.frameSize]

theorem advance_at_end {b : Block} (h : b.bin.toNat = b.frameSize - 1) : b.advance = b.frameEnd := by
  simp [Block.advance, h]

theorem advance_inside {b : Block} (h : b.bin.toNat ≠ b.frameSize - 1) :
    b.advance = { b with bin := b.bin + 1 } := by
  simp [Block.advance, h]

/-! ## The TRACKER -/

/-- The five cases of a step (R177 to R181). -/
theorem react_cases (b : Block) (p : Pitch) :
    (b.trk = .idle ∧ p.dead = true ∧ b.react p = b) ∨
    (b.trk = .idle ∧ p.dead = false ∧
      b.react p = { b.emit (noteOnMsg (note p.freq)) with trk := .playing (note p.freq) p.amp }) ∨
    (∃ n a, b.trk = .playing n a ∧ p.dead = false ∧ note p.freq = n ∧ le p.amp a = true ∧
      b.react p = b) ∨
    (∃ n a, b.trk = .playing n a ∧ p.dead = false ∧ ¬(note p.freq = n ∧ le p.amp a = true) ∧
      b.react p = { (b.emit (noteOffMsg n)).emit (noteOnMsg (note p.freq)) with
                    trk := .playing (note p.freq) p.amp }) ∨
    (∃ n a, b.trk = .playing n a ∧ p.dead = true ∧
      b.react p = { b.emit (noteOffMsg n) with trk := .idle }) := by
  unfold Block.react
  cases ht : b.trk with
  | idle => cases hd : p.dead <;> simp
  | playing n a =>
    cases hd : p.dead
    · by_cases hc : note p.freq = n ∧ le p.amp a = true
      · exact .inr (.inr (.inl ⟨n, a, rfl, rfl, hc.1, hc.2, if_pos hc⟩))
      · exact .inr (.inr (.inr (.inl ⟨n, a, rfl, rfl, hc, if_neg hc⟩)))
    · exact .inr (.inr (.inr (.inr ⟨n, a, rfl, rfl, rfl⟩)))

/-- A step pops the head of the FIFO. -/
theorem trackStep_eq {b : Block} {p : Pitch} {rest : List Pitch} (h : b.fifo = p :: rest) :
    b.trackStep = ({ b with fifo := rest }).react p := by
  simp [Block.trackStep, h]

/-! ## SINK -/

theorem sinkAccept_eq {s : State} {m : Midi} {rest : List Midi} (h : s.block.outq = m :: rest) :
    s.sinkAccept = (s.withBlock { s.block with outq := rest }).deliver m := by
  simp [State.sinkAccept, h]

theorem sinkError_eq {s : State} {m : Midi} {rest : List Midi} (h : s.block.outq = m :: rest) :
    s.sinkError = s.withBlock (s.block.raiseMidiSendError m) := by
  simp [State.sinkError, h]

/-! ## Enabling -/

theorem trackStepEnabled_iff (b : Block) :
    b.trackStepEnabled = true ↔ b.fault = false ∧ b.outq = [] ∧ ∃ p rest, b.fifo = p :: rest := by
  cases hf : b.fifo <;> simp [Block.trackStepEnabled, hf]

theorem sinkEnabled_iff (b : Block) :
    b.sinkEnabled = true ↔ b.fault = false ∧ ∃ m rest, b.outq = m :: rest := by
  cases hq : b.outq <;> simp [Block.sinkEnabled, hq]

theorem messageEnabled_iff (b : Block) (m : Midi) :
    b.messageEnabled m = true ↔ b.fault = false ∧ ∃ rest, b.outq = m :: rest := by
  cases hq : b.outq <;> simp [Block.messageEnabled, Block.sinkEnabled, Block.offered, hq]

theorem beatEnabled_iff (b : Block) :
    b.beatEnabled = true ↔ b.fault = false ∧
      ¬(b.bin ≠ 0 ∧ b.bin.toNat = b.frameSize - 1 ∧ b.fifo.length = b.params.fifoDepth) := by
  simp only [Block.beatEnabled, Block.fifoFull, Bool.and_eq_true, Bool.not_eq_true',
    Bool.and_eq_false_iff, bne_eq_false_iff_eq, beq_eq_false_iff_ne, ne_eq, not_and_or, not_not, or_assoc]

/-! ## What an operation can do -/

/-- A host write that stores: only configuration, injection registers and INJ_DROP change (R215). -/
def Stores (b b' : Block) : Prop :=
  ∃ thr rate l fq amp drop,
    b' = { b with cfgThr := thr, cfgRate := rate, cfgLog2n := l, injFreq := fq, injAmp := amp,
                  injDrop := drop } ∧
    (l = b.cfgLog2n ∨ Params.log2nLegal b.params l = true)

/-- The operations by which SINK takes the message m: SINK_ACCEPT takes any, NOTE_ON and NOTE_OFF are the
message itself (log 7). -/
def accepting (i : Instr) (m : Midi) : Prop :=
  i = .sinkAccept ∨ (∃ n, i = .noteOn n ∧ m = noteOnMsg n) ∨ ∃ n, i = .noteOff n ∧ m = noteOffMsg n

/-- What an operation does to a state: the inversion of `exec`. -/
inductive Does (s : State) : Instr → State → Prop
  | waits (i : Instr) (h : eventEnabled i s.block = false) : Does s i s
  | answers (i : Instr) (r : BusResult) (h : ¬ resets i) : Does s i (s.respond r)
  | stores (i : Instr) (b : Block) (h : Stores s.block b) (hr : ¬ resets i) :
      Does s i ((s.withBlock b).respond (.write .okay))
  | injects (d : Word) :
      Does s (.ctrlInject d) ((s.withBlock s.block.inject).respond (.write .okay))
  | softResets (d : Word) :
      Does s (.ctrlSrst d) ((s.withBlock s.block.softReset).respond (.write .okay))
  | beats (m : Word) (h : s.block.beatEnabled = true) :
      Does s (.sinBeat m) (s.withBlock (s.block.beat m))
  | tracks (p : Pitch) (rest : List Pitch) (hf : s.block.fault = false) (hq : s.block.outq = [])
      (hp : s.block.fifo = p :: rest) :
      Does s .trackStep (s.withBlock (({ s.block with fifo := rest }).react p))
  | accepts (i : Instr) (m : Midi) (rest : List Midi) (hi : accepting i m) (hf : s.block.fault = false)
      (hq : s.block.outq = m :: rest) :
      Does s i ((s.withBlock { s.block with outq := rest }).deliver m)
  | refuses (m : Midi) (rest : List Midi) (hf : s.block.fault = false) (hq : s.block.outq = m :: rest) :
      Does s .sinkError (s.withBlock (s.block.raiseMidiSendError m))
  | hardResets : Does s .reset (s.withBlock s.block.hardReset)

/-- Every operation answers a next state, and it is one that `Does` lists. -/
theorem exec_does (i : Instr) (s : State) : ∃ t, exec i s = .next t ∧ Does s i t := by
  have ans : ∀ (j : Instr) (r : BusResult), ¬ resets j →
      ∃ t, (Host.Outcome.next (s.respond r) : Host.Outcome State Fault Refusal) = .next t ∧ Does s j t :=
    fun j r h => ⟨_, rfl, .answers j r h⟩
  have sto : ∀ (j : Instr) (b : Block), Stores s.block b → ¬ resets j →
      ∃ t, finishWrite s b = .next t ∧ Does s j t :=
    fun j b h hr => ⟨_, rfl, .stores j b h hr⟩
  cases i with
  | sinBeat m =>
    by_cases h : s.block.beatEnabled = true
    · exact ⟨_, if_pos h, .beats m h⟩
    · exact ⟨s, if_neg h, .waits _ (by simpa [eventEnabled] using h)⟩
  | trackStep =>
    by_cases h : s.block.trackStepEnabled = true
    · obtain ⟨hf, hq, p, rest, hp⟩ := (trackStepEnabled_iff _).1 h
      refine ⟨_, if_pos h, ?_⟩
      rw [trackStep_eq hp]
      exact .tracks p rest hf hq hp
    · exact ⟨s, if_neg h, .waits _ (by simpa [eventEnabled] using h)⟩
  | noteOn n =>
    by_cases h : s.block.messageEnabled (noteOnMsg n) = true
    · obtain ⟨hf, rest, hq⟩ := (messageEnabled_iff _ _).1 h
      refine ⟨_, if_pos h, ?_⟩
      rw [sinkAccept_eq hq]
      exact .accepts _ _ rest (.inr (.inl ⟨n, rfl, rfl⟩)) hf hq
    · exact ⟨s, if_neg h, .waits _ (by simpa [eventEnabled] using h)⟩
  | noteOff n =>
    by_cases h : s.block.messageEnabled (noteOffMsg n) = true
    · obtain ⟨hf, rest, hq⟩ := (messageEnabled_iff _ _).1 h
      refine ⟨_, if_pos h, ?_⟩
      rw [sinkAccept_eq hq]
      exact .accepts _ _ rest (.inr (.inr ⟨n, rfl, rfl⟩)) hf hq
    · exact ⟨s, if_neg h, .waits _ (by simpa [eventEnabled] using h)⟩
  | sinkAccept =>
    by_cases h : s.block.sinkEnabled = true
    · obtain ⟨hf, m, rest, hq⟩ := (sinkEnabled_iff _).1 h
      refine ⟨_, if_pos h, ?_⟩
      rw [sinkAccept_eq hq]
      exact .accepts _ m rest (.inl rfl) hf hq
    · exact ⟨s, if_neg h, .waits _ (by simpa [eventEnabled] using h)⟩
  | sinkError =>
    by_cases h : s.block.sinkEnabled = true
    · obtain ⟨hf, m, rest, hq⟩ := (sinkEnabled_iff _).1 h
      refine ⟨_, if_pos h, ?_⟩
      rw [sinkError_eq hq]
      exact .refuses m rest hf hq
    · exact ⟨s, if_neg h, .waits _ (by simpa [eventEnabled] using h)⟩
  | reset => exact ⟨_, rfl, .hardResets⟩
  | ctrlSrst d => exact ⟨_, rfl, .softResets d⟩
  | ctrlInject d => exact ⟨_, rfl, .injects d⟩
  | wrThreshold d => exact sto _ _ ⟨d, _, _, _, _, _, rfl, .inl rfl⟩ (by simp [resets])
  | wrSampleRate d => exact sto _ _ ⟨_, d, _, _, _, _, rfl, .inl rfl⟩ (by simp [resets])
  | wrInjFreq d => exact sto _ _ ⟨_, _, _, d, _, _, rfl, .inl rfl⟩ (by simp [resets])
  | wrInjAmp d => exact sto _ _ ⟨_, _, _, _, d, _, rfl, .inl rfl⟩ (by simp [resets])
  | wrLog2n d =>
    refine sto _ _ ?_ (by simp [resets])
    split
    · rename_i h; exact ⟨_, _, log2nField d, _, _, _, rfl, .inr h⟩
    · exact ⟨_, _, _, _, _, _, rfl, .inl rfl⟩
  | wrStatus d =>
    refine sto _ _ ?_ (by simp [resets])
    split
    · exact ⟨_, _, _, _, _, false, rfl, .inl rfl⟩
    · exact ⟨_, _, _, _, _, _, rfl, .inl rfl⟩
  | _ => exact ans _ _ (by simp [resets])

/-- The inversion of `exec`. -/
theorem exec_cases {i : Instr} {s t : State} (h : exec i s = .next t) : Does s i t := by
  obtain ⟨u, hu, hd⟩ := exec_does i s
  cases hu.symm.trans h
  exact hd

/-! ## Turns -/

/-- A word put before everything else is the next one fetched, and fetching it restores the state. -/
@[simp] theorem fetch_offer (s : State) (p : PortWord) : (s.offer p).fetch = some (p, s) := by
  cases p <;> rfl

/-- Fetching takes a word and a turn: the block, the trace and the responses stay. -/
theorem fetch_keeps {s u : State} {p : PortWord} (h : s.fetch = some (p, u)) :
    u.block = s.block ∧ u.world.trace = s.world.trace ∧ u.world.responses = s.world.responses := by
  unfold State.fetch at h
  repeat' split at h
  all_goals first
    | (cases h; exact ⟨rfl, rfl, rfl⟩)
    | cases h

/-- The inversion of `step`: the turn goes by, or an enabled operation happens. -/
theorem step_cases {s t : State} (h : step s = .next t) :
    t = s.passTurn ∨
    ∃ p u i, s.fetch = some (p, u) ∧ decode p = .ok i ∧ eventEnabled i s.block = true ∧
      exec i u = .next t := by
  unfold step at h
  split at h
  · cases h; exact .inl rfl
  · rename_i p u hf
    split at h
    · cases h
    · rename_i i hd
      split at h
      · rename_i he; exact .inr ⟨p, u, i, hf, hd, he, h⟩
      · cases h; exact .inl rfl

end Sys2Proof.Machine
end

