-- ==== Sys2Proof/Laws/PerInstr.lean ====
section
/-! SUPPORT. Laws made per operation. EncodesItsRow: the encoding of a well-formed operation matches the row
of spec/opcode_table.json that the operation is, its mask and match written out here a second time. -/

namespace Sys2Proof.Laws.EncodesItsRow

/-- A row of the opcode table, by format. -/
inductive Row where
  | hb (mask pattern : BitVec 11) (dataMask dataMatch : Word)
  | sin
  | midi (mask pattern : BitVec 24)
  | event (e : EventOp)

/-- A word matches a row (30_encoding.md R82, R84, R86, R88). -/
def Row.matches : Row → PortWord → Bool
  | .hb mask pattern dataMask dataMatch, .host h =>
    h.header &&& mask == pattern && h.data &&& dataMask == dataMatch
  | .sin, .spectrum _ => true
  | .midi mask pattern, .midi wd => wd &&& mask == pattern
  | .event e, .event e' => e == e'
  | _, _ => false

/-- A row of one header. -/
def only (pattern : BitVec 11) : Row := .hb 0x7FF pattern 0 0

/-- The row of each operation. -/
def row : Instr → Row
  | .buserrSzNarrow _ _ _ => .hb 0x400 0x000 0 0
  | .buserrSzRsvd _ _ => .hb 0x600 0x600 0 0
  | .buserrAlign0 _ _ => .hb 0x001 0x001 0 0
  | .buserrAlign1 _ _ => .hb 0x002 0x002 0 0
  | .rdCtrl => only 0x400
  | .ctrlSrst _ => .hb 0x7FF 0x500 0x00000001 0x00000001
  | .ctrlInject _ => .hb 0x7FF 0x500 0x00000003 0x00000002
  | .ctrlNop _ => .hb 0x7FF 0x500 0x00000003 0x00000000
  | .rdStatus => only 0x404
  | .wrStatus _ => only 0x504
  | .rdThreshold => only 0x408
  | .wrThreshold _ => only 0x508
  | .rdSampleRate => only 0x40C
  | .wrSampleRate _ => only 0x50C
  | .rdLog2n => only 0x410
  | .wrLog2n _ => only 0x510
  | .rdBinIndex => only 0x414
  | .wrBinIndex _ => only 0x514
  | .rdPitchFreq => only 0x418
  | .rdPitchAmp => only 0x41C
  | .rdPitchBin => only 0x420
  | .wrPitchFreq _ => only 0x518
  | .wrPitchAmp _ => only 0x51C
  | .wrPitchBin _ => only 0x520
  | .rdInjFreq => only 0x424
  | .wrInjFreq _ => only 0x524
  | .rdInjAmp => only 0x428
  | .wrInjAmp _ => only 0x528
  | .rdTrkState => only 0x42C
  | .wrTrkState _ => only 0x52C
  | .rdTrkAmp => only 0x430
  | .wrTrkAmp _ => only 0x530
  | .rdFaultMsg => only 0x434
  | .wrFaultMsg _ => only 0x534
  | .rdCaps => only 0x438
  | .wrCaps _ => only 0x538
  | .rdRsvd3C => only 0x43C
  | .rdRsvd40To7F _ => .hb 0x7C0 0x440 0 0
  | .rdRsvd80ToFF _ => .hb 0x780 0x480 0 0
  | .wrRsvd3C _ => only 0x53C
  | .wrRsvd40To7F _ _ => .hb 0x7C0 0x540 0 0
  | .wrRsvd80ToFF _ _ => .hb 0x780 0x580 0 0
  | .sinBeat _ => .sin
  | .noteOn _ => .midi 0xFF80FF 0x900064
  | .noteOff _ => .midi 0xFF80FF 0x800064
  | .trackStep => .event .trackStep
  | .sinkAccept => .event .sinkAccept
  | .sinkError => .event .sinkError
  | .reset => .event .reset

/-- A well-formed operation is encoded as a word of its row. -/
def Statement (i : Instr) : Prop := i.wellFormed = true → (row i).matches (encode i) = true

/-- The data test of a row without data mask holds of every data word. -/
theorem noData (d : Word) : (d &&& 0 == (0 : Word)) = true := by simp

/-- A write row of one header matches every write there. -/
theorem only_write {pattern : BitVec 11} {a : BitVec 8} (d : Word)
    (h : ((0b10#2 ++ 1#1 ++ a) &&& 0x7FF == pattern) = true) :
    (only pattern).matches (writeWord a d) = true := by
  simp only [only, writeWord, hostWord, Row.matches, noData, Bool.and_true]
  exact h

theorem buserrSzNarrow (half : Bool) (acc : Access) (a : BitVec 8) : Statement (.buserrSzNarrow half acc a) := by
  revert a
  cases half <;> cases acc <;>
    simp only [Statement, Instr.wellFormed, row, encode, hostWord, Row.matches, noData, Bool.and_true] <;>
    decide

theorem buserrSzRsvd (acc : Access) (a : BitVec 8) : Statement (.buserrSzRsvd acc a) := by
  revert a
  cases acc <;>
    simp only [Statement, Instr.wellFormed, row, encode, hostWord, Row.matches, noData, Bool.and_true] <;>
    decide

theorem buserrAlign0 (acc : Access) (a : BitVec 8) : Statement (.buserrAlign0 acc a) := by
  revert a
  cases acc <;>
    simp only [Statement, Instr.wellFormed, row, encode, hostWord, Row.matches, noData, Bool.and_true] <;>
    decide

theorem buserrAlign1 (acc : Access) (a : BitVec 8) : Statement (.buserrAlign1 acc a) := by
  revert a
  cases acc <;>
    simp only [Statement, Instr.wellFormed, row, encode, hostWord, Row.matches, noData, Bool.and_true] <;>
    decide

theorem rdCtrl : Statement .rdCtrl := fun _ => by decide

theorem ctrlSrst (d : Word) : Statement (.ctrlSrst d) := by
  intro h
  have hdr : ((0b10#2 ++ 1#1 ++ 0x00#8) &&& 0x7FF#11 == 0x500#11) = true := by decide
  exact Bool.and_eq_true_iff.2 ⟨hdr, (and_one_beq d).trans h⟩

theorem ctrlInject (d : Word) : Statement (.ctrlInject d) := by
  intro h
  have hdr : ((0b10#2 ++ 1#1 ++ 0x00#8) &&& 0x7FF#11 == 0x500#11) = true := by decide
  exact Bool.and_eq_true_iff.2 ⟨hdr, (and_three_beq d true false).trans (by simpa [Instr.wellFormed] using h)⟩

theorem ctrlNop (d : Word) : Statement (.ctrlNop d) := by
  intro h
  have hdr : ((0b10#2 ++ 1#1 ++ 0x00#8) &&& 0x7FF#11 == 0x500#11) = true := by decide
  exact Bool.and_eq_true_iff.2 ⟨hdr, (and_three_beq d false false).trans (by simpa [Instr.wellFormed] using h)⟩

theorem rdStatus : Statement .rdStatus := fun _ => by decide

theorem wrStatus (d : Word) : Statement (.wrStatus d) := fun _ => only_write d (by decide)

theorem rdThreshold : Statement .rdThreshold := fun _ => by decide

theorem wrThreshold (d : Word) : Statement (.wrThreshold d) := fun _ => only_write d (by decide)

theorem rdSampleRate : Statement .rdSampleRate := fun _ => by decide

theorem wrSampleRate (d : Word) : Statement (.wrSampleRate d) := fun _ => only_write d (by decide)

theorem rdLog2n : Statement .rdLog2n := fun _ => by decide

theorem wrLog2n (d : Word) : Statement (.wrLog2n d) := fun _ => only_write d (by decide)

theorem rdBinIndex : Statement .rdBinIndex := fun _ => by decide

theorem wrBinIndex (d : Word) : Statement (.wrBinIndex d) := fun _ => only_write d (by decide)

theorem rdPitchFreq : Statement .rdPitchFreq := fun _ => by decide

theorem rdPitchAmp : Statement .rdPitchAmp := fun _ => by decide

theorem rdPitchBin : Statement .rdPitchBin := fun _ => by decide

theorem wrPitchFreq (d : Word) : Statement (.wrPitchFreq d) := fun _ => only_write d (by decide)

theorem wrPitchAmp (d : Word) : Statement (.wrPitchAmp d) := fun _ => only_write d (by decide)

theorem wrPitchBin (d : Word) : Statement (.wrPitchBin d) := fun _ => only_write d (by decide)

theorem rdInjFreq : Statement .rdInjFreq := fun _ => by decide

theorem wrInjFreq (d : Word) : Statement (.wrInjFreq d) := fun _ => only_write d (by decide)

theorem rdInjAmp : Statement .rdInjAmp := fun _ => by decide

theorem wrInjAmp (d : Word) : Statement (.wrInjAmp d) := fun _ => only_write d (by decide)

theorem rdTrkState : Statement .rdTrkState := fun _ => by decide

theorem wrTrkState (d : Word) : Statement (.wrTrkState d) := fun _ => only_write d (by decide)

theorem rdTrkAmp : Statement .rdTrkAmp := fun _ => by decide

theorem wrTrkAmp (d : Word) : Statement (.wrTrkAmp d) := fun _ => only_write d (by decide)

theorem rdFaultMsg : Statement .rdFaultMsg := fun _ => by decide

theorem wrFaultMsg (d : Word) : Statement (.wrFaultMsg d) := fun _ => only_write d (by decide)

theorem rdCaps : Statement .rdCaps := fun _ => by decide

theorem wrCaps (d : Word) : Statement (.wrCaps d) := fun _ => only_write d (by decide)

theorem rdRsvd3C : Statement .rdRsvd3C := fun _ => by decide

theorem rdRsvd40To7F (i : BitVec 4) : Statement (.rdRsvd40To7F i) := by
  revert i; unfold Statement; decide

theorem rdRsvd80ToFF (i : BitVec 5) : Statement (.rdRsvd80ToFF i) := by
  revert i; unfold Statement; decide

theorem wrRsvd3C (d : Word) : Statement (.wrRsvd3C d) := fun _ => only_write d (by decide)

theorem wrRsvd40To7F (i : BitVec 4) (d : Word) : Statement (.wrRsvd40To7F i d) := by
  revert i
  simp only [Statement, Instr.wellFormed, row, encode, writeWord, hostWord, Row.matches, noData, Bool.and_true]
  decide

theorem wrRsvd80ToFF (i : BitVec 5) (d : Word) : Statement (.wrRsvd80ToFF i d) := by
  revert i
  simp only [Statement, Instr.wellFormed, row, encode, writeWord, hostWord, Row.matches, noData, Bool.and_true]
  decide

theorem sinBeat (m : Word) : Statement (.sinBeat m) := fun _ => rfl

theorem noteOn (n : BitVec 7) : Statement (.noteOn n) := by
  revert n; unfold Statement; decide

theorem noteOff (n : BitVec 7) : Statement (.noteOff n) := by
  revert n; unfold Statement; decide

theorem trackStep : Statement .trackStep := fun _ => by decide

theorem sinkAccept : Statement .sinkAccept := fun _ => by decide

theorem sinkError : Statement .sinkError := fun _ => by decide

theorem reset : Statement .reset := fun _ => by decide

end Sys2Proof.Laws.EncodesItsRow
end

