-- ==== Sys2Proof/Laws/Script.lean ====
section
/-! SUPPORT. Scripts run piece by piece: playing two scripts after one another, a script with
pseudo-operations item by item, and as many acceptances as messages are offered. -/

namespace Sys2Proof.Machine

@[simp] theorem State.play_nil (s : State) : s.play [] = some s := rfl

/-- A line whose event is enabled: the script goes on from where its operation leads. -/
theorem State.play_cons {s t : State} {l : ScriptLine} {ls : List ScriptLine} {i : Instr}
    (hd : decode (scriptWord l) = .ok i) (he : eventEnabled i s.block = true) (hx : exec i s = .next t) :
    s.play (l :: ls) = t.play ls := by
  simp only [State.play, hd, he, if_pos, hx]

/-- A script in two parts: the second runs from where the first ends. -/
theorem State.play_append (s : State) (ls ms : List ScriptLine) :
    s.play (ls ++ ms) = (s.play ls).bind fun t => t.play ms := by
  induction ls generalizing s with
  | nil => rfl
  | cons l ls ih =>
    simp only [List.cons_append, State.play]
    cases decode (scriptWord l) with
    | error _ => rfl
    | ok i => cases he : eventEnabled i s.block <;> cases hx : exec i s <;> simp [he, hx, ih]

@[simp] theorem State.playItems_nil (s : State) : s.playItems [] = some s := rfl

/-- A script with pseudo-operations runs item by item, each expanded where it stands. -/
theorem State.playItems_cons (s : State) (i : ScriptItem) (is : List ScriptItem) :
    s.playItems (i :: is) = (s.play (i.expand s.block)).bind fun t => t.playItems is := by
  cases h : s.play (i.expand s.block) with
  | none => simp [State.playItems, State.expand, h]
  | some t => cases he : t.expand is <;> simp [State.playItems, State.expand, State.play_append, h, he]

/-- Accepting as often as messages are offered sends them all, in order. -/
theorem State.play_accepts (s : State) (hf : s.block.fault = false) :
    s.play (List.replicate s.block.outq.length .accept) =
      some { block := { s.block with outq := [] }
             world := { s.world with trace := s.world.trace ++ s.block.outq } } := by
  generalize hq : s.block.outq = q
  induction q generalizing s with
  | nil => obtain ⟨⟨⟩, w⟩ := s; simp_all
  | cons m rest ih =>
    have he : s.block.sinkEnabled = true := (sinkEnabled_iff _).2 ⟨hf, m, rest, hq⟩
    have hx : exec .sinkAccept s = .next ((s.withBlock { s.block with outq := rest }).deliver m) := by
      simp [exec, execSinkAccept, he, sinkAccept_eq hq]
    rw [List.length_cons, List.replicate_succ, State.play_cons (i := .sinkAccept) rfl he hx,
      ih ((s.withBlock { s.block with outq := rest }).deliver m) hf rfl]
    simp [State.deliver, State.withBlock]

end Sys2Proof.Machine
end

