-- ==== Sys2Proof/Tests/Slice0.lean ====
section
/-! SUPPORT. Tests of the model. Expected values are taken from the rules, examples and vectors of spec/ named
beside them, or worked out by hand from them. At the end, for every statement of Obligations.lean with
hypotheses, a witness that meets them all. -/

namespace Sys2Proof.Tests

open Sys2Proof.Machine

/-! ## WellFormed: a term each check refuses -/

/-- Bit 0 of a BUSERR_ALIGN0 address is 1 (R82). -/
theorem test_wf_align0 : (Instr.buserrAlign0 .read 0x02).wellFormed = false := by decide

/-- Bits 1:0 of a BUSERR_ALIGN1 address are 10 (R82): 0x00 and 0x03 are not. -/
theorem test_wf_align1 : (Instr.buserrAlign1 .read 0x00).wellFormed = false ∧
    (Instr.buserrAlign1 .read 0x03).wellFormed = false := by decide

/-- CTRL_SRST has D[0] = 1 (R104). -/
theorem test_wf_srst : (Instr.ctrlSrst 0x00000002).wellFormed = false := by decide

/-- CTRL_INJECT has D[1:0] = 10 (R104). -/
theorem test_wf_inject : (Instr.ctrlInject 0x00000003).wellFormed = false ∧
    (Instr.ctrlInject 0xFFFFFFFC).wellFormed = false := by decide

/-- CTRL_NOP has D[1:0] = 00 (R104). -/
theorem test_wf_nop : (Instr.ctrlNop 0x00000001).wellFormed = false ∧
    (Instr.ctrlNop 0x00000002).wellFormed = false := by decide

/-! ## Decoding: one word of each row, written out from 30_encoding.md R81, R84, R86, R88

A header is {SZ 2 bits, W 1 bit, A 8 bits}. -/

theorem test_decode_buserr_sz_narrow :
    decode (.host ⟨0b01100000100, 7⟩) = .ok (.buserrSzNarrow true (.write 7) 0b00000100) := by rfl

theorem test_decode_buserr_sz_rsvd :
    decode (.host ⟨0b11000111000, 0⟩) = .ok (.buserrSzRsvd .read 0b00111000) := by rfl

theorem test_decode_buserr_align0 :
    decode (.host ⟨0b10000000011, 0⟩) = .ok (.buserrAlign0 .read 0b00000011) := by rfl

theorem test_decode_buserr_align1 :
    decode (.host ⟨0b10111111110, 9⟩) = .ok (.buserrAlign1 (.write 9) 0b11111110) := by rfl

theorem test_decode_rd_ctrl : decode (.host ⟨0b10000000000, 0⟩) = .ok (.rdCtrl) := by rfl

theorem test_decode_rd_status : decode (.host ⟨0b10000000100, 0⟩) = .ok (.rdStatus) := by rfl

theorem test_decode_wr_status : decode (.host ⟨0b10100000100, 5⟩) = .ok (.wrStatus 5) := by rfl

theorem test_decode_rd_threshold : decode (.host ⟨0b10000001000, 0⟩) = .ok (.rdThreshold) := by rfl

theorem test_decode_wr_threshold : decode (.host ⟨0b10100001000, 5⟩) = .ok (.wrThreshold 5) := by rfl

theorem test_decode_rd_sample_rate : decode (.host ⟨0b10000001100, 0⟩) = .ok (.rdSampleRate) := by rfl

theorem test_decode_wr_sample_rate : decode (.host ⟨0b10100001100, 5⟩) = .ok (.wrSampleRate 5) := by rfl

theorem test_decode_rd_log2n : decode (.host ⟨0b10000010000, 0⟩) = .ok (.rdLog2n) := by rfl

theorem test_decode_wr_log2n : decode (.host ⟨0b10100010000, 5⟩) = .ok (.wrLog2n 5) := by rfl

theorem test_decode_rd_bin_index : decode (.host ⟨0b10000010100, 0⟩) = .ok (.rdBinIndex) := by rfl

theorem test_decode_wr_bin_index : decode (.host ⟨0b10100010100, 5⟩) = .ok (.wrBinIndex 5) := by rfl

theorem test_decode_rd_pitch_freq : decode (.host ⟨0b10000011000, 0⟩) = .ok (.rdPitchFreq) := by rfl

theorem test_decode_wr_pitch_freq : decode (.host ⟨0b10100011000, 5⟩) = .ok (.wrPitchFreq 5) := by rfl

theorem test_decode_rd_pitch_amp : decode (.host ⟨0b10000011100, 0⟩) = .ok (.rdPitchAmp) := by rfl

theorem test_decode_wr_pitch_amp : decode (.host ⟨0b10100011100, 5⟩) = .ok (.wrPitchAmp 5) := by rfl

theorem test_decode_rd_pitch_bin : decode (.host ⟨0b10000100000, 0⟩) = .ok (.rdPitchBin) := by rfl

theorem test_decode_wr_pitch_bin : decode (.host ⟨0b10100100000, 5⟩) = .ok (.wrPitchBin 5) := by rfl

theorem test_decode_rd_inj_freq : decode (.host ⟨0b10000100100, 0⟩) = .ok (.rdInjFreq) := by rfl

theorem test_decode_wr_inj_freq : decode (.host ⟨0b10100100100, 5⟩) = .ok (.wrInjFreq 5) := by rfl

theorem test_decode_rd_inj_amp : decode (.host ⟨0b10000101000, 0⟩) = .ok (.rdInjAmp) := by rfl

theorem test_decode_wr_inj_amp : decode (.host ⟨0b10100101000, 5⟩) = .ok (.wrInjAmp 5) := by rfl

theorem test_decode_rd_trk_state : decode (.host ⟨0b10000101100, 0⟩) = .ok (.rdTrkState) := by rfl

theorem test_decode_wr_trk_state : decode (.host ⟨0b10100101100, 5⟩) = .ok (.wrTrkState 5) := by rfl

theorem test_decode_rd_trk_amp : decode (.host ⟨0b10000110000, 0⟩) = .ok (.rdTrkAmp) := by rfl

theorem test_decode_wr_trk_amp : decode (.host ⟨0b10100110000, 5⟩) = .ok (.wrTrkAmp 5) := by rfl

theorem test_decode_rd_fault_msg : decode (.host ⟨0b10000110100, 0⟩) = .ok (.rdFaultMsg) := by rfl

theorem test_decode_wr_fault_msg : decode (.host ⟨0b10100110100, 5⟩) = .ok (.wrFaultMsg 5) := by rfl

theorem test_decode_rd_caps : decode (.host ⟨0b10000111000, 0⟩) = .ok (.rdCaps) := by rfl

theorem test_decode_wr_caps : decode (.host ⟨0b10100111000, 5⟩) = .ok (.wrCaps 5) := by rfl

theorem test_decode_rd_rsvd3c : decode (.host ⟨0b10000111100, 0⟩) = .ok (.rdRsvd3C) := by rfl

theorem test_decode_wr_rsvd3c : decode (.host ⟨0b10100111100, 5⟩) = .ok (.wrRsvd3C 5) := by rfl

theorem test_decode_ctrl_srst : decode (.host ⟨0b10100000000, 0b11⟩) = .ok (.ctrlSrst 3) := by rfl

theorem test_decode_ctrl_inject : decode (.host ⟨0b10100000000, 0b110⟩) = .ok (.ctrlInject 6) := by rfl

theorem test_decode_ctrl_nop : decode (.host ⟨0b10100000000, 0b100⟩) = .ok (.ctrlNop 4) := by rfl

theorem test_decode_rd_rsvd_40_7f : decode (.host ⟨0b10001100100, 0⟩) = .ok (.rdRsvd40To7F 0b1001) := by rfl

theorem test_decode_rd_rsvd_80_ff : decode (.host ⟨0b10010000100, 0⟩) = .ok (.rdRsvd80ToFF 0b00001) := by rfl

theorem test_decode_wr_rsvd_40_7f :
    decode (.host ⟨0b10101100100, 5⟩) = .ok (.wrRsvd40To7F 0b1001 5) := by rfl

theorem test_decode_wr_rsvd_80_ff :
    decode (.host ⟨0b10111111000, 5⟩) = .ok (.wrRsvd80ToFF 0b11110 5) := by rfl

theorem test_decode_sin_beat : decode (.spectrum 0x437A0000) = .ok (.sinBeat 0x437A0000) := by rfl

theorem test_decode_note_on : decode (.midi 0b100100000100010101100100) = .ok (.noteOn 0b1000101) := by rfl

theorem test_decode_note_off : decode (.midi 0b100000000101000101100100) = .ok (.noteOff 0b1010001) := by rfl

theorem test_decode_track_step : decode (.event .trackStep) = .ok (.trackStep) := by rfl

theorem test_decode_sink_accept : decode (.event .sinkAccept) = .ok (.sinkAccept) := by rfl

theorem test_decode_sink_error : decode (.event .sinkError) = .ok (.sinkError) := by rfl

theorem test_decode_reset : decode (.event .reset) = .ok (.reset) := by rfl

/-- A channel other than 0, a data byte of 128 or more and another velocity are no message (R86, R89). -/
theorem test_decode_no_row : decode (.midi 0x914564) = .error .noRow ∧
    decode (.midi 0x908064) = .error .noRow ∧ decode (.midi 0x904565) = .error .noRow := ⟨rfl, rfl, rfl⟩

/-- The encoder writes the wire words of R182 and R183 and the headers of R81. -/
theorem test_encode : encode (.noteOn 69) = .midi 0x904564 ∧ encode (.noteOff 69) = .midi 0x804564 ∧
    encode (.wrThreshold 0x3F800000) = .host ⟨0x508, 0x3F800000⟩ ∧
    encode (.rdRsvd80ToFF 31) = .host ⟨0x4FC, 0⟩ := by decide

/-! ## Small states -/

/-- A state with this block and nothing around it. -/
def stateOf (b : Block) : State := ⟨b, World.start⟩

/-- The block after reset with LOG2N_MAX 13 and FIFO_DEPTH 4. -/
def b0 : Block := Block.reset ⟨13, 4⟩

/-- Playing(69, 300.0), with 880.0 Hz at 300.0 waiting. -/
def playing69 : Block :=
  { b0 with trk := .playing 69 0x43960000, fifo := [⟨0x445C0000, 0x43960000⟩] }

/-- The messages of a retrigger from note 69 to note 81 wait for SINK. -/
def retriggered : Block :=
  { b0 with trk := .playing 81 0x43960000, outq := [⟨0x80, 0x45, 0x64⟩, ⟨0x90, 0x51, 0x64⟩] }

/-- Halted on a refused NOTE_ON(81), with a lost injection. -/
def halted : Block :=
  { b0 with trk := .playing 81 0x43960000, fault := true, cause := 1, faultMsg := 0x905164, injDrop := true }

/-- Before bin k of the frame of program P2 (N = 4, threshold 1.0, rate 1760), bin 1 (3.0) being loudest. -/
def inFrame (k : BitVec 16) : Block :=
  { b0 with
    cfgThr := 0x3F800000, cfgRate := 1760, cfgLog2n := 2
    latThr := 0x3F800000, latRate := 1760, latLog2n := 2
    bestMag := 0x40400000, bestBin := 1, bin := k }

/-- Four records wait: the FIFO is full. -/
def fullFifo (b : Block) : Block := { b with fifo := List.replicate 4 ⟨0x43DC0000, 0x43960000⟩ }

/-- The next state of an operation. -/
def after (i : Instr) (s : State) : State :=
  match exec i s with
  | .next t => t
  | _ => s

/-- What HOST gets. -/
def answers (i : Instr) (b : Block) : List BusResult := (after i (stateOf b)).world.responses

/-- The block after an operation. -/
def blockAfter (i : Instr) (b : Block) : Block := (after i (stateOf b)).block

/-! ## One step of each operation -/

/-- R102: a 1-byte access at A = 0x00 is BUSERR though aligned; a write answers BUSERR too. -/
theorem test_buserr_sz_narrow :
    answers (.buserrSzNarrow false .read 0x00) b0 = [.read 0 .buserr] ∧
    answers (.buserrSzNarrow true (.write 1) 0x08) b0 = [.write .buserr] := by decide

/-- R102: SZ = 0b11 is BUSERR at every address; the write stores nothing. -/
theorem test_buserr_sz_rsvd :
    answers (.buserrSzRsvd (.write 1) 0x08) b0 = [.write .buserr] ∧
    blockAfter (.buserrSzRsvd (.write 1) 0x08) b0 = b0 := by decide

/-- R102: `wrx 0b10, 0x09, 0xFFFFFFFF` leaves every register unchanged. -/
theorem test_buserr_align0 :
    answers (.buserrAlign0 (.write 0xFFFFFFFF) 0x09) halted = [.write .buserr] ∧
    blockAfter (.buserrAlign0 (.write 0xFFFFFFFF) 0x09) halted = halted := by decide

/-- R102: a 4-byte access at A = 0x02 is BUSERR. -/
theorem test_buserr_align1 :
    answers (.buserrAlign1 .read 0x02) b0 = [.read 0 .buserr] := by decide

/-- R103. -/
theorem test_rd_ctrl :
    answers .rdCtrl halted = [.read 0 .okay] := by decide

/-- R108: a message offered while a note sounds reads 0x34; after reset 0x04 (R25). -/
theorem test_rd_status :
    answers .rdStatus { b0 with trk := .playing 69 0x43960000, outq := [⟨0x90, 0x45, 0x64⟩] } =
      [.read 0x00000034 .okay] ∧
    answers .rdStatus b0 = [.read 0x00000004 .okay] := by decide

/-- R25: four records, three bins into a frame, the fault and INJ_DROP. -/
theorem test_rd_status_full :
    answers .rdStatus (fullFifo { halted with bin := 3, pvalid := true }) = [.read 0x000401DB .okay] := by decide

/-- R110. -/
theorem test_rd_threshold :
    answers .rdThreshold b0 = [.read 0x437A0000 .okay] := by decide

/-- R112. -/
theorem test_rd_sample_rate :
    answers .rdSampleRate b0 = [.read 0x0000BB80 .okay] := by decide

/-- R114. -/
theorem test_rd_log2n :
    answers .rdLog2n b0 = [.read 0x0000000D .okay] := by decide

/-- R116. -/
theorem test_rd_bin_index :
    answers .rdBinIndex { b0 with bin := 3 } = [.read 0x00000003 .okay] := by decide

/-- R118: after the frame of P2. -/
theorem test_rd_pitch_freq :
    answers .rdPitchFreq (blockAfter (.sinBeat 0x40E00000) (inFrame 3)) = [.read 0x43DC0000 .okay] := by decide +kernel

/-- R119: same point. -/
theorem test_rd_pitch_amp :
    answers .rdPitchAmp (blockAfter (.sinBeat 0x40E00000) (inFrame 3)) = [.read 0x40400000 .okay] := by decide +kernel

/-- R120: same point, and after an all-zero frame. -/
theorem test_rd_pitch_bin :
    answers .rdPitchBin (blockAfter (.sinBeat 0x40E00000) (inFrame 3)) = [.read 0x00000001 .okay] ∧
    answers .rdPitchBin (blockAfter (.sinBeat 0) { inFrame 3 with bestMag := 0, bestBin := 0 }) =
      [.read 0x80000000 .okay] := by decide +kernel

/-- R124. -/
theorem test_rd_inj_freq :
    answers .rdInjFreq { b0 with injFreq := 0x43DC0000 } = [.read 0x43DC0000 .okay] := by decide

/-- R126. -/
theorem test_rd_inj_amp :
    answers .rdInjAmp { b0 with injAmp := 0x43960000 } = [.read 0x43960000 .okay] := by decide

/-- R128: `Playing(69, _)` reads 0x00004501, Idle 0. -/
theorem test_rd_trk_state :
    answers .rdTrkState playing69 = [.read 0x00004501 .okay] ∧ answers .rdTrkState b0 = [.read 0 .okay] := by decide

/-- R130. -/
theorem test_rd_trk_amp :
    answers .rdTrkAmp playing69 = [.read 0x43960000 .okay] ∧ answers .rdTrkAmp b0 = [.read 0 .okay] := by decide

/-- R132: a refused NoteOn(81). -/
theorem test_rd_fault_msg :
    answers .rdFaultMsg halted = [.read 0x00905164 .okay] := by decide

/-- R134. -/
theorem test_rd_caps :
    answers .rdCaps b0 = [.read 0x0000040D .okay] ∧
    answers .rdCaps (Block.reset ⟨16, 255⟩) = [.read 0x0000FF10 .okay] := by decide

/-- R136. -/
theorem test_rd_rsvd :
    answers .rdRsvd3C halted = [.read 0 .okay] ∧ answers (.rdRsvd40To7F 15) halted = [.read 0 .okay] ∧
    answers (.rdRsvd80ToFF 31) halted = [.read 0 .okay] := by decide

/-- R105: after a MIDI send error STATUS reads 0x04; D = 3 injects nothing; the configuration stays (R232). -/
theorem test_ctrl_srst :
    (blockAfter (.ctrlSrst 3) halted).statusWord = 0x00000004 ∧
    (blockAfter (.ctrlSrst 3) { halted with cfgThr := 7, bin := 2 }) = { b0 with cfgThr := 7, latThr := 7 } := by decide

/-- R106: `inject f:440.0, f:300.0` on an empty FIFO. -/
theorem test_ctrl_inject :
    (blockAfter (.ctrlInject 2) { b0 with injFreq := 0x43DC0000, injAmp := 0x43960000 }).fifo =
      [⟨0x43DC0000, 0x43960000⟩] := by decide

/-- R106: with the FIFO full the record is dropped and INJ_DROP set. -/
theorem test_ctrl_inject_drops :
    blockAfter (.ctrlInject 2) (fullFifo b0) = { fullFifo b0 with injDrop := true } := by decide

/-- R107: `wr CTRL, 0xFFFFFFFC` does nothing. -/
theorem test_ctrl_nop :
    blockAfter (.ctrlNop 0xFFFFFFFC) halted = halted ∧ answers (.ctrlNop 0xFFFFFFFC) halted = [.write .okay] := by decide

/-- R109: FAULT stays, INJ_DROP is cleared; without bit 1 it stays. -/
theorem test_wr_status :
    blockAfter (.wrStatus 0xFFFFFFFF) halted = { halted with injDrop := false } ∧
    blockAfter (.wrStatus 0xFFFFFFFD) halted = halted := by decide

/-- R111. -/
theorem test_wr_threshold :
    blockAfter (.wrThreshold 0x3F800000) (inFrame 2) = { inFrame 2 with cfgThr := 0x3F800000 } := by decide

/-- R113. -/
theorem test_wr_sample_rate :
    blockAfter (.wrSampleRate 44100) b0 = { b0 with cfgRate := 0x0000AC44 } := by decide

/-- R115: D = 0x2D stores 13, D = 1 stores 1. -/
theorem test_wr_log2n :
    (blockAfter (.wrLog2n 0x2D) { b0 with cfgLog2n := 2 }).cfgLog2n = 13 ∧ (blockAfter (.wrLog2n 1) b0).cfgLog2n = 1 := by decide

/-- R115: D = 0, 14 and 0x20 are ignored. -/
theorem test_wr_log2n_ignored :
    blockAfter (.wrLog2n 0) b0 = b0 ∧ blockAfter (.wrLog2n 14) b0 = b0 ∧ blockAfter (.wrLog2n 0x20) b0 = b0 := by decide

/-- R125, R127: nothing is pushed. -/
theorem test_wr_inj :
    blockAfter (.wrInjFreq 5) b0 = { b0 with injFreq := 5 } ∧ blockAfter (.wrInjAmp 6) b0 = { b0 with injAmp := 6 } := by decide

/-- R117, R121 to R123, R129 to R135: ignored. -/
theorem test_wr_read_only :
    (∀ i ∈ [Instr.wrBinIndex 5, .wrPitchFreq 5, .wrPitchAmp 5, .wrPitchBin 5, .wrTrkState 5, .wrTrkAmp 5,
      .wrFaultMsg 5, .wrCaps 5], blockAfter i halted = halted ∧ answers i halted = [.write .okay]) := by decide

/-- R137: ignored. -/
theorem test_wr_rsvd :
    (∀ i ∈ [Instr.wrRsvd3C 5, .wrRsvd40To7F 1 5, .wrRsvd80ToFF 1 5],
      blockAfter i halted = halted ∧ answers i halted = [.write .okay]) := by decide

/-- R141: the fourth beat of the frame of P2 pushes Pitch(440.0, 3.0). -/
theorem test_sin_beat :
    (blockAfter (.sinBeat 0x40E00000) (inFrame 3)).fifo = [⟨0x43DC0000, 0x40400000⟩] ∧
    (blockAfter (.sinBeat 0x40E00000) (inFrame 3)).bin = 0 := by decide +kernel

/-- R145: 9.0 at bin 2 of N = 4 is not compared. -/
theorem test_sin_beat_mirror :
    blockAfter (.sinBeat 0x41100000) (inFrame 2) = inFrame 3 := by decide

/-- R182, R184: NOTE_ON(69) is offered and crosses the port; NOTE_ON(70) is not and does not (log 7). -/
theorem test_note_on :
    (after (.noteOn 69) (stateOf { b0 with outq := [⟨0x90, 0x45, 0x64⟩] })).world.trace = [⟨0x90, 0x45, 0x64⟩] ∧
    (blockAfter (.noteOn 69) { b0 with outq := [⟨0x90, 0x45, 0x64⟩] }).outq = [] ∧
    blockAfter (.noteOn 70) { b0 with outq := [⟨0x90, 0x45, 0x64⟩] } = { b0 with outq := [⟨0x90, 0x45, 0x64⟩] } := by decide

/-- R183, R184: of a retrigger the NOTE_OFF crosses first; with nothing offered nothing crosses (log 7). -/
theorem test_note_off :
    (blockAfter (.noteOff 69) retriggered).outq = [⟨0x90, 0x51, 0x64⟩] ∧
    (blockAfter (.noteOff 69) b0).outq = [] := by decide

/-- R180: Playing(69, 300.0) and Pitch(880.0, 300.0). -/
theorem test_track_step :
    blockAfter .trackStep playing69 = retriggered := by decide +kernel

/-- R179: the same note not louder emits nothing and keeps the stored amplitude. -/
theorem test_track_step_continues :
    blockAfter .trackStep { playing69 with fifo := [⟨0x43DC0000, 0x43480000⟩] } = { playing69 with fifo := [] } := by decide +kernel

/-- R184. -/
theorem test_sink_accept :
    (after .sinkAccept (stateOf retriggered)).world.trace = [⟨0x80, 0x45, 0x64⟩] ∧
    (blockAfter .sinkAccept retriggered).outq = [⟨0x90, 0x51, 0x64⟩] := by decide

/-- R185: `outq = [NOTE_ON(81)]`, `fail`. -/
theorem test_sink_error :
    (after .sinkError (stateOf { retriggered with outq := [⟨0x90, 0x51, 0x64⟩] })) =
      stateOf { halted with injDrop := false } := by decide

/-- R230, R43. -/
theorem test_reset :
    blockAfter .reset { halted with cfgThr := 7, injFreq := 9, bin := 2 } = b0 := by decide

/-! ## Values -/

/-- R147: the three examples for N = 8192, R = 48000, the rounded one at R = 44100, and k = 0. -/
theorem test_binfreq : binfreq 75 48000 13 = 0x43DBBA00 ∧ binfreq 1 48000 13 = 0x40BB8000 ∧
    binfreq 4095 48000 13 = 0x46BB7448 ∧ binfreq 4095 44100 13 = 0x46AC393C ∧
    binfreq 0 48000 13 = 0x00000000 := by decide +kernel

/-- R173: the boundary T_69 and the pattern below it, and both clamps (R174). -/
theorem test_note_bounds : note 0x43D5BCAE = 69 ∧ note 0x43D5BCAD = 68 ∧ note 0x40BB8000 = 0 ∧
    note 0x46BB7448 = 127 := by decide +kernel

/-- R171: the corner cases. -/
theorem test_dead : dead 0x43DC0000 0x3BA3D70A = true ∧ dead 0 0x43960000 = true ∧
    dead 0xC3DC0000 0x43960000 = true ∧ dead 0x43DC0000 0x7FC00000 = true ∧
    dead 0x7FC00000 0x43960000 = true ∧ dead 0x80000000 0x43960000 = true ∧
    dead 0x7F800000 0x43960000 = false ∧ dead 0x43DC0000 0x7F800000 = false ∧
    dead 0x43DC0000 0x3C23D70A = false ∧ dead 0x43DC0000 0x3C23D709 = true := by decide +kernel

/-- The table word of a row put before everything else is what the next step runs. -/
theorem test_with_fetch_word : step (State.reset.withFetchWord 16 0x404) =
    .next (State.reset.respond (.read 0x00000004 .okay)) := by rfl

/-- With no turn listed nothing happens (log 2). -/
theorem test_idle_step : step State.reset = .next State.reset := by rfl

/-! ## Witnesses: for each statement with hypotheses, operands and a state that meet them all

Each theorem is named after its statement; where the statement has clauses over one input, each clause is met
at an end of its range. -/

theorem witness_DecodeInvertsEncode : (Instr.buserrAlign0 .read 0x01).wellFormed = true ∧
    (Instr.buserrAlign1 (.write 5) 0xFE).wellFormed = true ∧ (Instr.ctrlSrst 3).wellFormed = true ∧
    (Instr.ctrlInject 0xFFFFFFFE).wellFormed = true ∧ (Instr.ctrlNop 0xFFFFFFFC).wellFormed = true ∧
    (Instr.noteOn 127).wellFormed = true := by decide

theorem witness_MidiWordsAreTheTwoMessages : decode (.midi 0x900064) = .ok (.noteOn 0) ∧
    decode (.midi 0x907F64) = .ok (.noteOn 127) ∧ decode (.midi 0x800064) = .ok (.noteOff 0) ∧
    decode (.midi 0x807F64) = .ok (.noteOff 127) := ⟨rfl, rfl, rfl, rfl⟩

theorem witness_ControlWriteIsSplitByData :
    (0x00000003 : Word).getLsbD 0 = true ∧ decode (.host ⟨0x500, 0x00000003⟩) = .ok (.ctrlSrst 3) ∧
    (0x00000002 : Word).getLsbD 0 = false ∧ (0x00000002 : Word).getLsbD 1 = true ∧
    decode (.host ⟨0x500, 0x00000002⟩) = .ok (.ctrlInject 2) ∧
    (0xFFFFFFFC : Word).getLsbD 0 = false ∧ (0xFFFFFFFC : Word).getLsbD 1 = false ∧
    decode (.host ⟨0x500, 0xFFFFFFFC⟩) = .ok (.ctrlNop 0xFFFFFFFC) :=
  ⟨rfl, rfl, rfl, rfl, rfl, rfl, rfl, rfl⟩

theorem witness_IllegalTransactionsAnswerBusErr :
    ((0b00 : BitVec 2) ≠ 0b10 ∨ (0x00 : BitVec 8).extractLsb' 0 2 ≠ 0) ∧
    ((0b11 : BitVec 2) ≠ 0b10 ∨ (0xFC : BitVec 8).extractLsb' 0 2 ≠ 0) ∧
    ((0b10 : BitVec 2) ≠ 0b10 ∨ (0x01 : BitVec 8).extractLsb' 0 2 ≠ 0) ∧
    ((0b10 : BitVec 2) ≠ 0b10 ∨ (0xFE : BitVec 8).extractLsb' 0 2 ≠ 0) := by decide

theorem witness_AlignedReadsShowTheAddressSpace : (0x00 : BitVec 8).extractLsb' 0 2 = 0 ∧
    (0x38 : BitVec 8).extractLsb' 0 2 = 0 ∧ (0xFC : BitVec 8).extractLsb' 0 2 = 0 := by decide

theorem witness_TrackerFaultAndCapsReads : b0.trk = .idle ∧ playing69.trk = .playing 69 0x43960000 ∧
    b0.params.legal = true ∧ (Block.reset ⟨16, 255⟩).params.legal = true := by decide

theorem witness_ReservedReadsAnswerZero :
    ((0x3C : BitVec 8).extractLsb' 0 2 = 0 ∧ ((0x3C : BitVec 8) = 0x3C ∨ 0x40 ≤ (0x3C : BitVec 8).toNat)) ∧
    ((0x40 : BitVec 8).extractLsb' 0 2 = 0 ∧ ((0x40 : BitVec 8) = 0x3C ∨ 0x40 ≤ (0x40 : BitVec 8).toNat)) ∧
    ((0xFC : BitVec 8).extractLsb' 0 2 = 0 ∧ ((0xFC : BitVec 8) = 0x3C ∨ 0x40 ≤ (0xFC : BitVec 8).toNat)) := by
  decide

theorem witness_ReservedWritesAreIgnored :
    ((0x7C : BitVec 8).extractLsb' 0 2 = 0 ∧ ((0x7C : BitVec 8) = 0x3C ∨ 0x40 ≤ (0x7C : BitVec 8).toNat)) ∧
    ((0x80 : BitVec 8).extractLsb' 0 2 = 0 ∧ ((0x80 : BitVec 8) = 0x3C ∨ 0x40 ≤ (0x80 : BitVec 8).toNat)) := by
  decide

theorem witness_ControlNopChangesNothing : (0xFFFFFFFC : Word).extractLsb' 0 2 = 0 := by decide

theorem witness_Log2nStoresLegalValuesOnly :
    (1 ≤ (1 : Word).toNat % 32 ∧ (1 : Word).toNat % 32 ≤ b0.params.log2nMax) ∧
    (1 ≤ (0x2D : Word).toNat % 32 ∧ (0x2D : Word).toNat % 32 ≤ b0.params.log2nMax) ∧
    ((0x20 : Word).toNat % 32 = 0 ∨ b0.params.log2nMax < (0x20 : Word).toNat % 32) ∧
    ((14 : Word).toNat % 32 = 0 ∨ b0.params.log2nMax < (14 : Word).toNat % 32) := by decide

theorem witness_StatusWriteClearsInjDropOnly : (0x00000002 : Word).getLsbD 1 = true ∧
    (0xFFFFFFFD : Word).getLsbD 1 = false := by decide

theorem witness_InjectionPushesOrDrops :
    (0xFFFFFFFE : Word).getLsbD 0 = false ∧ (0xFFFFFFFE : Word).getLsbD 1 = true ∧
    (halted.fault = true ∨ halted.fifo.length = halted.params.fifoDepth) ∧
    ((fullFifo b0).fault = true ∨ (fullFifo b0).fifo.length = (fullFifo b0).params.fifoDepth) ∧
    playing69.fault = false ∧ playing69.fifo.length ≠ playing69.params.fifoDepth := by decide

theorem witness_StatusAfterAResetIsFour : halted.params.legal = true ∧
    exec .reset (stateOf halted) = .next (after .reset (stateOf halted)) ∧
    exec (.ctrlSrst 1) (stateOf halted) = .next (after (.ctrlSrst 1) (stateOf halted)) :=
  ⟨by decide, rfl, rfl⟩

theorem witness_FirstBeatLatchesTheConfiguration : b0.fault = false ∧ b0.bin = 0 ∧ 1 ≤ b0.cfgLog2n.toNat ∧
    ({ b0 with cfgLog2n := 1 } : Block).fault = false ∧ ({ b0 with cfgLog2n := 1 } : Block).bin = 0 ∧
    1 ≤ ({ b0 with cfgLog2n := 1 } : Block).cfgLog2n.toNat := by decide

theorem witness_InnerBeatsCompareInTheLowerHalfOnly : (inFrame 1).fault = false ∧ (inFrame 1).bin ≠ 0 ∧
    (inFrame 1).bin.toNat < 2 ^ (inFrame 1).latLog2n.toNat / 2 ∧
    (inFrame 2).fault = false ∧ (inFrame 2).bin ≠ 0 ∧
    2 ^ (inFrame 2).latLog2n.toNat / 2 ≤ (inFrame 2).bin.toNat ∧
    (inFrame 2).bin.toNat ≠ 2 ^ (inFrame 2).latLog2n.toNat - 1 := by decide

theorem witness_LastBeatEmitsThePitch : (inFrame 3).fault = false ∧ (inFrame 3).bin ≠ 0 ∧
    (inFrame 3).bin.toNat = 2 ^ (inFrame 3).latLog2n.toNat - 1 ∧
    (inFrame 3).fifo.length ≠ (inFrame 3).params.fifoDepth := by decide

/-- Inside its frame the block of program P2 meets the invariant. -/
theorem witness_inFrame_inv (k : BitVec 16) (hk : k.toNat < 4) : (inFrame k).Inv :=
  ⟨rfl, rfl, rfl, hk, (by decide : (1 : BitVec 16).toNat < 2 ^ (2 : BitVec 5).toNat / 2),
    (by decide +kernel : ge 0x40400000 plusZero = true),
    fun h => absurd h (by decide : (0x40400000 : Word) ≠ plusZero), Nat.zero_le _, Nat.zero_le _,
    fun _ => rfl, rfl, fun _ => rfl, fun n a h => (by cases h), fun _ => ⟨rfl, rfl, rfl, rfl⟩,
    fun h => (by cases h)⟩

/-- A beat waits: halted; last with the FIFO full. It is taken: first with the FIFO full; last and not last in
blocks that meet the invariant. -/
theorem witness_BeatIsTakenExactlyWhenEnabled : halted.fault = true ∧
    ((fullFifo (inFrame 3)).bin ≠ 0 ∧
      (fullFifo (inFrame 3)).bin.toNat = 2 ^ (fullFifo (inFrame 3)).latLog2n.toNat - 1 ∧
      (fullFifo (inFrame 3)).fifo.length = (fullFifo (inFrame 3)).params.fifoDepth) ∧
    ¬((fullFifo (inFrame 0)).fault = true ∨ ((fullFifo (inFrame 0)).bin ≠ 0 ∧
      (fullFifo (inFrame 0)).bin.toNat = 2 ^ (fullFifo (inFrame 0)).latLog2n.toNat - 1 ∧
      (fullFifo (inFrame 0)).fifo.length = (fullFifo (inFrame 0)).params.fifoDepth)) ∧
    (inFrame 3).Inv ∧ (inFrame 3).bin.toNat + 1 = 2 ^ (inFrame 3).latLog2n.toNat ∧
    (inFrame 3).beatEnabled = true ∧
    (inFrame 2).Inv ∧ (inFrame 2).bin.toNat + 1 < 2 ^ (inFrame 2).latLog2n.toNat ∧
    (inFrame 2).beatEnabled = true :=
  ⟨by decide, by decide, by decide, witness_inFrame_inv 3 (by decide), by decide, by decide,
    witness_inFrame_inv 2 (by decide), by decide, by decide⟩

/-- The frame of program P2. -/
def frameP2 : List Word := [0x3F000000, 0x40400000, 0x41100000, 0x40E00000]

theorem witness_FrameYieldsItsLowestLoudestBin : (inFrame 0).fault = false ∧ (inFrame 0).bin = 0 ∧
    (inFrame 0).params.legal = true ∧ Params.log2nLegal (inFrame 0).params (inFrame 0).cfgLog2n = true ∧
    (inFrame 0).fifo.length < (inFrame 0).params.fifoDepth ∧
    frameP2.length = 2 ^ (inFrame 0).cfgLog2n.toNat := by decide

theorem witness_ConfigurationWritesSpareTheFrameInProgress : (inFrame 1).bin ≠ 0 ∧
    (inFrame 1).latLog2n.toNat ≤ 16 ∧
    (inFrame 1).bin.toNat + frameP2.tail.length ≤ 2 ^ (inFrame 1).latLog2n.toNat ∧
    ((stateOf (inFrame 1)).play (scriptFrame frameP2.tail)).isSome = true := by decide +kernel

theorem witness_RoundingIsNearestTiesToEven : (2 ^ 48 - 1 : Nat) < 2 ^ 48 ∧ (2 ^ 24 - 1 : Nat) < 2 ^ 24 ∧
    F 0x3F800000 = .finite (2 ^ 149) := by decide +kernel

theorem witness_BinToHertzScalesExactly : (1 : BitVec 16).toNat * (0x00FFFFFF : Word).toNat < 2 ^ 24 := by
  decide

theorem witness_BinToHertzIsMonotone : (0 : BitVec 16).toNat ≤ (0xFFFF : BitVec 16).toNat := by decide

theorem witness_ComparisonsOrderPatterns : F 0x7FC00000 = .nan ∧ F 0xFF800001 = .nan ∧
    (0x00000000 : Word).toNat ≤ 0x7F800000 ∧ (0x7F800000 : Word).toNat ≤ 0x7F800000 := by decide +kernel

theorem witness_NoteIsTheNearestSemitone : F 0x00000001 = .finite 1 ∧ (0 : Int) < 1 ∧
    F 0x7F7FFFFF = .finite (16777215 * 2 ^ 253) ∧ (0 : Int) < 16777215 * 2 ^ 253 ∧
    F 0x7F800000 = .infinite false := by decide +kernel

theorem witness_SemitonesNeverTie : F 0x43DC0000 = .finite (440 * 2 ^ 149) ∧ (0 : Int) < 440 * 2 ^ 149 := by
  decide +kernel

/-- Dead by amplitude and by frequency, from Idle and from Playing. -/
theorem witness_TrackStepOnADeadPitch :
    (∀ p ∈ [Pitch.mk 0x43DC0000 0x3C23D709, Pitch.mk 0x80000000 0x43960000],
      ¬(ge p.amp 0x3C23D70A = true ∧ gt p.freq 0x00000000 = true)) ∧
    playing69.fault = false ∧ playing69.outq = [] ∧ playing69.fifo = [⟨0x445C0000, 0x43960000⟩] ∧
    playing69.trk = .playing 69 0x43960000 ∧ b0.trk = .idle := by decide +kernel

/-- Live from Idle; the same note not louder; the same note louder, and another note. -/
theorem witness_TrackStepOnALivePitch :
    playing69.fault = false ∧ playing69.outq = [] ∧ playing69.fifo = [⟨0x445C0000, 0x43960000⟩] ∧
    (∀ p ∈ [Pitch.mk 0x445C0000 0x43960000, Pitch.mk 0x43DC0000 0x3C23D70A],
      ge p.amp 0x3C23D70A = true ∧ gt p.freq 0x00000000 = true) ∧
    b0.trk = .idle ∧ playing69.trk = .playing 69 0x43960000 ∧
    (note 0x43DC0000 = 69 ∧ le 0x43960000 0x43960000 = true) ∧
    (note 0x43DC0000 ≠ 69 ∨ le 0x43960001 0x43960000 = false) ∧
    (note 0x445C0000 ≠ 69 ∨ le 0x43960000 0x43960000 = false) := by decide +kernel

theorem witness_MessagesCrossTheMidiPort : retriggered.fault = false ∧
    retriggered.outq = ⟨0x80, (69 : BitVec 7).setWidth 8, 0x64⟩ :: [noteOnMsg 81] ∧
    ({ b0 with outq := [noteOnMsg 127] } : Block).outq = ⟨0x90, (127 : BitVec 7).setWidth 8, 0x64⟩ :: [] := by
  decide

theorem witness_SinkAcceptDeliversTheHead : retriggered.fault = false ∧
    retriggered.outq = [noteOffMsg 69, noteOnMsg 81] := by decide

theorem witness_SinkErrorTakesTheFault : retriggered.fault = false ∧
    retriggered.outq = [noteOffMsg 69, noteOnMsg 81] := by decide

theorem witness_DisabledEventsChangeNothing :
    (retriggered.fault = true ∨ retriggered.outq ≠ [] ∨ retriggered.fifo = []) ∧
    (b0.fault = true ∨ b0.outq ≠ [] ∨ b0.fifo = []) ∧ (halted.fault = true ∨ halted.outq = []) ∧
    (b0.fault = true ∨ b0.outq = []) ∧
    (retriggered.fault = true ∨
      retriggered.outq.head? ≠ some ⟨0x90, (81 : BitVec 7).setWidth 8, 0x64⟩) ∧
    (b0.fault = true ∨ b0.outq.head? ≠ some ⟨0x80, (69 : BitVec 7).setWidth 8, 0x64⟩) := by decide

theorem witness_OnlySinkErrorRaisesTheFault :
    exec .sinkError (stateOf retriggered) = .next (after .sinkError (stateOf retriggered)) ∧
    retriggered.fault = false ∧ (blockAfter .sinkError retriggered).fault = true := ⟨rfl, rfl, rfl⟩

theorem witness_OnlyResetsLeaveTheHalt : halted.fault = true ∧ resets .reset ∧ ¬ resets (.ctrlInject 2) ∧
    exec .reset (stateOf halted) = .next (after .reset (stateOf halted)) ∧
    exec (.ctrlInject 2) (stateOf halted) = .next (after (.ctrlInject 2) (stateOf halted)) ∧
    exec .trackStep (stateOf halted) = .next (stateOf halted) ∧ agentOf .trackStep ≠ .host :=
  ⟨rfl, .inl rfl, by simp [resets], rfl, rfl, rfl, by decide⟩

theorem witness_AgentsWriteTheirOwnState :
    exec (.wrLog2n 3) (stateOf b0) = .next (after (.wrLog2n 3) (stateOf b0)) ∧ agentOf (.wrLog2n 3) = .host ∧
    exec (.sinBeat 5) (stateOf b0) = .next (after (.sinBeat 5) (stateOf b0)) ∧ agentOf (.sinBeat 5) = .src ∧
    exec .trackStep (stateOf b0) = .next (after .trackStep (stateOf b0)) ∧ agentOf .trackStep = .trk ∧
    exec .sinkAccept (stateOf retriggered) = .next (after .sinkAccept (stateOf retriggered)) ∧
    agentOf .sinkAccept = .sink ∧ ¬ resets (.wrLog2n 3) ∧ ¬ resets .sinkAccept :=
  ⟨rfl, rfl, rfl, rfl, rfl, rfl, rfl, rfl, by simp [resets], by simp [resets]⟩

theorem witness_ParametersNeverChange : step State.reset = .next State.reset ∧
    step (State.reset.withFetchWord 0 3) = .next State.reset := ⟨rfl, rfl⟩

/-- A block inside a frame, with a note sounding and records waiting, meets the invariant. -/
theorem witness_inv : ({ fullFifo (inFrame 3) with trk := .playing 69 0x43960000 } : Block).Inv :=
  ⟨by decide, by decide, by decide, by decide, by decide, by decide +kernel, by decide, by decide, by decide,
    by decide, by decide, by decide, fun n a h => (by cases h; decide +kernel), by decide, by decide⟩

theorem witness_BinCounterFollowsBeatsAndResets :
    ({ fullFifo (inFrame 3) with trk := .playing 69 0x43960000 } : Block).Inv ∧ (inFrame 3).Inv ∧
    exec (.sinBeat 7) (stateOf (inFrame 3)) = .next (after (.sinBeat 7) (stateOf (inFrame 3))) ∧
    (inFrame 3).beatEnabled = true ∧ (inFrame 3).bin.toNat + 1 = 2 ^ (inFrame 3).latLog2n.toNat ∧
    (inFrame 2).beatEnabled = true ∧ (inFrame 2).bin.toNat + 1 < 2 ^ (inFrame 2).latLog2n.toNat ∧
    (fullFifo (inFrame 3)).beatEnabled = false :=
  ⟨witness_inv, witness_inFrame_inv 3 (by decide),
    rfl, by decide, by decide, by decide, by decide, by decide⟩

theorem witness_FifoIsFirstInFirstOut :
    exec .trackStep (stateOf playing69) = .next (after .trackStep (stateOf playing69)) := rfl

theorem witness_MessagesKeepTheirOrder :
    exec .sinkAccept (stateOf retriggered) = .next (after .sinkAccept (stateOf retriggered)) ∧
    ¬ resets .sinkAccept ∧ Instr.sinkAccept ≠ .sinkError := ⟨rfl, by simp [resets], by decide⟩

theorem witness_TrackerStateFollowsItsMessages :
    exec .trackStep (stateOf playing69) = .next (after .trackStep (stateOf playing69)) ∧
    ¬ resets .trackStep ∧
    exec .sinkError (stateOf retriggered) = .next (after .sinkError (stateOf retriggered)) ∧
    ¬ resets .sinkError ∧ exec .reset (stateOf retriggered) = .next (after .reset (stateOf retriggered)) ∧
    resets .reset := ⟨rfl, by simp [resets], rfl, by simp [resets], rfl, .inl rfl⟩

theorem witness_ResetStatesMeetTheInvariants : (⟨13, 1⟩ : Params).legal = true ∧
    (⟨16, 255⟩ : Params).legal = true := by decide

/-- A full FIFO and a last beat in hand, so the turn goes by, and one where a step happens. -/
theorem witness_EveryStepKeepsTheInvariant :
    ({ fullFifo (inFrame 3) with trk := .playing 69 0x43960000 } : Block).Inv ∧
    step ((stateOf { fullFifo (inFrame 3) with trk := .playing 69 0x43960000 }).withFetchWord 0 0) =
      .next (after .trackStep (stateOf { fullFifo (inFrame 3) with trk := .playing 69 0x43960000 })) :=
  ⟨witness_inv, rfl⟩

/-- Note 69 is on the trace and sounds; the tracker's step that retriggers is next. -/
def sounding : State :=
  { block := playing69, world := { World.start with trace := [noteOnMsg 69], turns := [.event .trackStep] } }

theorem witness_StepsKeepMessagesPaired : sounding.Paired ∧ sounding.nextEvent = some .trackStep ∧
    keepsPairing .trackStep sounding.block = true ∧ keepsPairing .reset b0 = true ∧
    step sounding = .next (after .trackStep { sounding with world := { sounding.world with turns := [] } }) :=
  ⟨rfl, rfl, rfl, rfl, rfl⟩

theorem witness_StepRunsTheDecodedOperation :
    sounding.fetch = some (.event .trackStep, { sounding with world := { sounding.world with turns := [] } }) ∧
    decode (.event .trackStep) = .ok .trackStep ∧ eventEnabled .trackStep sounding.block = true ∧
    (∀ p ∈ [PortWord.host ⟨0x404, 0⟩, .spectrum 5, .midi 0x904564, .event .reset],
      (State.reset.offer p).fetch = some (p, State.reset)) ∧
    decodeTableWord 24 0x804564 = some (.noteOff 69) ∧ eventEnabled (.noteOff 69) retriggered = true :=
  ⟨rfl, rfl, rfl, by decide, rfl, rfl⟩

theorem witness_DisabledTurnsGoBy :
    (State.reset.offer (.event .sinkAccept)).fetch = some (.event .sinkAccept, State.reset) ∧
    decode (.event .sinkAccept) = .ok .sinkAccept ∧ eventEnabled .sinkAccept State.reset.block = false ∧
    State.reset.fetch = none := ⟨rfl, rfl, rfl, rfl⟩

theorem witness_WaitingBeatIsTakenAfterAPop : (fullFifo (inFrame 3)).fault = false ∧
    (fullFifo (inFrame 3)).outq = [] ∧
    (fullFifo (inFrame 3)).fifo = ⟨0x43DC0000, 0x43960000⟩ :: List.replicate 3 ⟨0x43DC0000, 0x43960000⟩ ∧
    (fullFifo (inFrame 3)).fifo.length = (fullFifo (inFrame 3)).params.fifoDepth ∧
    (fullFifo (inFrame 3)).bin ≠ 0 ∧
    (fullFifo (inFrame 3)).bin.toNat = 2 ^ (fullFifo (inFrame 3)).latLog2n.toNat - 1 ∧
    ({ World.start with
        turns := [.spectrum, .event .trackStep, .spectrum], srcIn := [5] } : World).turns =
      [.spectrum, .event .trackStep, .spectrum] ++ [] := by decide

theorem witness_ScriptsRunAsPlayed : ((stateOf playing69).play [.step, .accept, .accept, .rd .trkState,
    .rdx 0b01 0x09, .wr .threshold 5, .beat 7, .reset]).isSome = true ∧
    ((stateOf playing69).playItems [.deliver, .line (.rd .trkState), .release, .deliver, .inject 7 0x3F800000,
      .deliver, .srst, .frame [1, 2]]).isSome = true ∧
    playing69.fault = false ∧ playing69.outq = [] ∧ playing69.fifo ≠ [] := by decide +kernel

/-- 30_encoding.md R92: deliver accepts 2 messages after a retrigger, 1 after a first note, 0 after a
continuation, and after a release the NOTE_OFF. -/
theorem test_deliver_counts :
    (stateOf playing69).expand [.deliver, .release, .deliver] =
      some ([.step, .accept, .accept] ++ scriptRelease ++ [.step, .accept]) ∧
    (stateOf { playing69 with trk := .idle }).expand [.deliver] = some [.step, .accept] ∧
    (stateOf { playing69 with trk := .playing 81 0x43960000 }).expand [.deliver] = some [.step] ∧
    (stateOf playing69).play [.step, .accept, .accept, .accept] = none := by decide +kernel

theorem witness_DrainedBlocksAreQuiet : b0.drained = true := by decide

theorem witness_ReleaseSilencesTheBlock :
    let b : Block := { playing69 with fifo := [] }
    b.fault = false ∧ b.fifo = [] ∧ b.outq = [] ∧ 1 ≤ b.params.fifoDepth ∧
    b.trk = .playing 69 0x43960000 ∧ b0.trk = .idle ∧ b0.fault = false := by decide

end Sys2Proof.Tests
end

section
/-! The order of the binary32 patterns (spec/00_scope.md R11): the values that are no NaN, numbered from -inf to
+inf, so that each comparison of patterns is one of integers. -/

namespace Sys2Proof.Machine

/-- The units of a pattern taken as a signed number: n without the sign bit, -n with it. -/
def signedUnits (n : Int) : Int := n.sign * patternUnits n.natAbs

theorem signedUnits_natCast (n : Nat) : signedUnits n = patternUnits n := by
  cases n with
  | zero => rfl
  | succ n => rw [signedUnits, Int.natAbs_natCast, Int.sign_natCast_of_ne_zero n.succ_ne_zero, one_mul]

theorem signedUnits_neg (n : Int) : signedUnits (-n) = -signedUnits n := by
  simp [signedUnits]

theorem signedUnits_strictMono : StrictMono signedUnits := by
  refine strictMono_of_odd_strictMonoOn_nonneg signedUnits_neg ?_
  intro m hm n hn hmn
  obtain ⟨m, rfl⟩ := Int.eq_ofNat_of_zero_le hm
  obtain ⟨n, rfl⟩ := Int.eq_ofNat_of_zero_le hn
  rw [signedUnits_natCast, signedUnits_natCast, Int.ofNat_lt]
  exact patternUnits_strictMono (Int.ofNat_lt.1 hmn)

/-- The values that are no NaN, numbered in order from -inf to +inf: n is the value of the pattern n without
the sign bit, -n that of the same pattern with it, and 0 that of both zeros. -/
def valueAt (n : Int) : Value :=
  if n = 0x7F800000 then .infinite false
  else if n = -0x7F800000 then .infinite true
  else .finite (signedUnits n)

theorem valueAt_posInf : valueAt 0x7F800000 = .infinite false := rfl

theorem valueAt_negInf : valueAt (-0x7F800000) = .infinite true := rfl

theorem valueAt_of_finite {n : Int} (hlo : -0x7F800000 < n) (hhi : n < 0x7F800000) :
    valueAt n = .finite (signedUnits n) := by
  rw [valueAt, if_neg (by omega), if_neg (by omega)]

/-- A place in the order is that of -inf, of a finite value or of +inf. -/
theorem place_cases {n : Int} (h : |n| ≤ 0x7F800000) :
    n = -0x7F800000 ∨ (-0x7F800000 < n ∧ n < 0x7F800000) ∨ n = 0x7F800000 := by
  rw [abs_le] at h
  omega

theorem valueAt_ne_nan (n : Int) : valueAt n ≠ .nan := by
  unfold valueAt
  split_ifs <;> simp

/-- The numbers order the values: of the nine pairs of places only the one of two finite values is about their
units. -/
theorem lt_valueAt {m n : Int} (hm : |m| ≤ 0x7F800000) (hn : |n| ≤ 0x7F800000) :
    (valueAt m).lt (valueAt n) = true ↔ m < n := by
  obtain rfl | ⟨hm1, hm2⟩ | rfl := place_cases hm <;> obtain rfl | ⟨hn1, hn2⟩ | rfl := place_cases hn
  case inr.inl.inr.inl =>
    rw [valueAt_of_finite hm1 hm2, valueAt_of_finite hn1 hn2, Value.lt, decide_eq_true_iff,
      signedUnits_strictMono.lt_iff_lt]
  all_goals simp [valueAt_posInf, valueAt_negInf, valueAt_of_finite, Value.lt, le_of_lt, *]

theorem le_valueAt {m n : Int} (hm : |m| ≤ 0x7F800000) (hn : |n| ≤ 0x7F800000) :
    (valueAt m).le (valueAt n) = true ↔ m ≤ n := by
  rw [← not_lt, ← lt_valueAt hn hm, Bool.not_eq_true]
  refine ⟨fun hle => Bool.eq_false_iff.2 fun hlt => ?_,
    Value.le_of_not_lt (valueAt_ne_nan n) (valueAt_ne_nan m)⟩
  simpa using Value.lt_of_lt_of_le hlt hle

/-- The value of a pattern up to +inf. -/
theorem F_eq_valueAt {a : Word} (h : a.toNat ≤ 0x7F800000) : F a = valueAt a.toNat := by
  obtain hlt | heq := Nat.lt_or_eq_of_le h
  · have hmsb : a.msb = false := BitVec.msb_eq_false_iff_two_mul_lt.2 (by omega)
    rw [F_of_nonneg hmsb hlt, valueAt_of_finite (by omega) (by omega), signedUnits_natCast]
  · obtain rfl : a = 0x7F800000#32 := BitVec.eq_of_toNat_eq heq
    rfl

/-- The sign of a value changed; a NaN stays. -/
def Value.neg : Value → Value
  | .nan => .nan
  | .infinite n => .infinite !n
  | .finite x => .finite (-x)

theorem valueAt_neg (n : Int) : valueAt (-n) = (valueAt n).neg := by
  by_cases hpos : n = 0x7F800000
  · rw [hpos]; rfl
  by_cases hneg : n = -0x7F800000
  · rw [hneg]; rfl
  rw [valueAt, valueAt, if_neg (by omega), if_neg (by omega), if_neg hpos, if_neg hneg, signedUnits_neg,
    Value.neg]

/-- The sign bit changes the sign of the value and nothing else. -/
theorem F_or_signBit {a : Word} (h : a.msb = false) : F (a ||| 0x80000000) = (F a).neg := by
  have he : exponentField (a ||| 0x80000000) = exponentField a := by
    simp [exponentField, BitVec.extractLsb'_or]
  have hr : fractionField (a ||| 0x80000000) = fractionField a := by
    simp [fractionField, BitVec.extractLsb'_or]
  have hs : (a ||| 0x80000000).msb = true := by
    rw [BitVec.msb_or, show (0x80000000 : Word).msb = true by decide, Bool.or_true]
  simp only [F, he, hr, hs, h, if_true, Bool.false_eq_true, if_false]
  split_ifs <;> rfl

theorem F_or_signBit_eq_valueAt {a : Word} (h : a.toNat ≤ 0x7F800000) :
    F (a ||| 0x80000000) = valueAt (-a.toNat) := by
  have hmsb : a.msb = false := BitVec.msb_eq_false_iff_two_mul_lt.2 (by omega)
  rw [F_or_signBit hmsb, F_eq_valueAt h, valueAt_neg]

/-- The three comparisons of patterns by the places of their values. -/
theorem comparisons_of_places {a b : Word} {m n : Int} (ha : F a = valueAt m) (hb : F b = valueAt n)
    (hm : |m| ≤ 0x7F800000) (hn : |n| ≤ 0x7F800000) :
    (gt a b = true ↔ n < m) ∧ (ge a b = true ↔ n ≤ m) ∧ (le a b = true ↔ m ≤ n) := by
  simp only [gt, ge, le, ha, hb]
  exact ⟨lt_valueAt hn hm, le_valueAt hn hm, le_valueAt hm hn⟩

theorem comparisons_of_nan {a b : Word} (h : F a = .nan ∨ F b = .nan) :
    gt a b = false ∧ ge a b = false ∧ le a b = false := by
  have hnn : ¬(F a ≠ .nan ∧ F b ≠ .nan) := by tauto
  simp only [gt, ge, le, ← Bool.not_eq_true]
  exact ⟨fun hlt => hnn (Value.ne_nan_of_lt hlt).symm, fun hle => hnn (Value.ne_nan_of_le hle).symm,
    fun hle => hnn (Value.ne_nan_of_le hle)⟩

end Sys2Proof.Machine
end

section
/-! Rounding an integer to binary32 (spec/00_scope.md R11): the value of `rne32 x` by its significand, and the two
finite values next to x. -/

namespace Sys2Proof.Machine

/-- The units of a normal pattern with exponent field k + 1; a fraction of 2^23 carries into the exponent. -/
theorem patternUnits_normal (k : Nat) {f : Nat} (hf : f ≤ 2 ^ 23) :
    patternUnits ((k + 1) * 2 ^ 23 + f) = (2 ^ 23 + f) * 2 ^ k := by
  obtain hlt | rfl := Nat.lt_or_eq_of_le hf
  · have hd : ((k + 1) * 2 ^ 23 + f) / 2 ^ 23 = k + 1 := by omega
    have hm : ((k + 1) * 2 ^ 23 + f) % 2 ^ 23 = f := by omega
    rw [patternUnits, hd, hm, magnitudeUnits, if_neg (by omega), Nat.add_sub_cancel]
  · have hd : ((k + 1) * 2 ^ 23 + 2 ^ 23) / 2 ^ 23 = k + 2 := by omega
    have hm : ((k + 1) * 2 ^ 23 + 2 ^ 23) % 2 ^ 23 = 0 := by omega
    rw [patternUnits, hd, hm, magnitudeUnits, if_neg (by omega), show k + 2 - 1 = k + 1 from rfl, pow_succ]
    ring

/-- A finite pattern has the units of some pattern without sign bit, or their negative. -/
theorem exists_patternUnits_of_F {b : Word} {v : Int} (h : F b = .finite v) :
    ∃ n, v = patternUnits n ∨ v = -patternUnits n := by
  have hf : fractionField b < 2 ^ 23 := (b.extractLsb' 0 23).isLt
  have hu : patternUnits (exponentField b * 2 ^ 23 + fractionField b) =
      magnitudeUnits (exponentField b) (fractionField b) := by
    rw [patternUnits, show (exponentField b * 2 ^ 23 + fractionField b) / 2 ^ 23 = exponentField b by omega,
      show (exponentField b * 2 ^ 23 + fractionField b) % 2 ^ 23 = fractionField b by omega]
  refine ⟨exponentField b * 2 ^ 23 + fractionField b, ?_⟩
  rw [hu]
  unfold F at h
  split_ifs at h <;> cases h
  · exact .inr rfl
  · exact .inl rfl

/-- No finite value lies strictly between two neighbouring patterns without sign bit. -/
theorem finite_le_or_ge {b : Word} {v : Int} (h : F b = .finite v) (p : Nat) :
    v ≤ patternUnits p ∨ (patternUnits (p + 1) : Int) ≤ v := by
  obtain ⟨n, rfl | rfl⟩ := exists_patternUnits_of_F h
  · obtain hn | hn := Nat.lt_or_ge p n
    · exact .inr (Int.ofNat_le.2 (patternUnits_strictMono.monotone hn))
    · exact .inl (Int.ofNat_le.2 (patternUnits_strictMono.monotone hn))
  · exact .inl (by omega)

/-- The significand `rne32` rounds x to, in 2^23 .. 2^24. -/
def rneSignificand (x : Nat) : Nat :=
  if x.log2 ≤ 23 then x * 2 ^ (23 - x.log2)
  else roundedQuotient (x / 2 ^ (x.log2 - 23)) (x % 2 ^ (x.log2 - 23)) (2 ^ (x.log2 - 24))

theorem rne32_eq {x : Nat} (h : x ≠ 0) :
    rne32 x = BitVec.ofNat 32 ((x.log2 + 127) * 2 ^ 23 + (rneSignificand x - 2 ^ 23)) := if_neg h

theorem rneSignificand_of_log2_le {x : Nat} (h : x.log2 ≤ 23) :
    rneSignificand x = x * 2 ^ (23 - x.log2) := if_pos h

/-- Above 24 bits x is 2·2^k·q + r with half step 2^k, and its significand is q rounded by r. -/
theorem rneSignificand_of_log2_eq {x k : Nat} (h : x.log2 = k + 24) :
    rneSignificand x = roundedQuotient (x / 2 ^ (k + 1)) (x % 2 ^ (k + 1)) (2 ^ k) := by
  rw [rneSignificand, if_neg (by omega), h]
  rfl

theorem roundedQuotient_cases (q r half : Nat) :
    (roundedQuotient q r half = q ∧ (r < half ∨ r = half ∧ q % 2 = 0)) ∨
    (roundedQuotient q r half = q + 1 ∧ (half < r ∨ r = half ∧ q % 2 = 1)) := by
  unfold roundedQuotient
  split_ifs with h
  · exact .inr ⟨rfl, h⟩
  · exact .inl ⟨rfl, by omega⟩

/-- The integer part of x in units of the significand's last place has 24 bits. -/
theorem quotient_bounds {x k : Nat} (h : x.log2 = k + 24) :
    2 ^ 23 ≤ x / 2 ^ (k + 1) ∧ x / 2 ^ (k + 1) < 2 ^ 24 := by
  have hx : x ≠ 0 := by rintro rfl; simp at h
  have hlo : 2 ^ (k + 24) ≤ x := h ▸ Nat.log2_self_le hx
  have hhi : x < 2 ^ (k + 24 + 1) := h ▸ Nat.lt_log2_self
  constructor
  · rw [Nat.le_div_iff_mul_le (by positivity), ← pow_add]
    exact (Nat.pow_le_pow_right (by norm_num) (by omega)).trans hlo
  · rw [Nat.div_lt_iff_lt_mul (by positivity), ← pow_add]
    exact hhi.trans_le (Nat.pow_le_pow_right (by norm_num) (by omega))

theorem rneSignificand_bounds {x : Nat} (h : x ≠ 0) :
    2 ^ 23 ≤ rneSignificand x ∧ rneSignificand x ≤ 2 ^ 24 := by
  obtain hle | hgt := Nat.lt_or_ge 23 x.log2 |>.symm
  · have hlo : 2 ^ x.log2 ≤ x := Nat.log2_self_le h
    have hhi : x < 2 ^ (x.log2 + 1) := Nat.lt_log2_self
    rw [rneSignificand_of_log2_le hle]
    constructor
    · calc 2 ^ 23 = 2 ^ x.log2 * 2 ^ (23 - x.log2) := by rw [← pow_add]; congr 1; omega
        _ ≤ x * 2 ^ (23 - x.log2) := Nat.mul_le_mul_right _ hlo
    · calc x * 2 ^ (23 - x.log2) ≤ 2 ^ (x.log2 + 1) * 2 ^ (23 - x.log2) := Nat.mul_le_mul_right _ hhi.le
        _ = 2 ^ 24 := by rw [← pow_add]; congr 1; omega
  · obtain ⟨k, hk⟩ : ∃ k, x.log2 = k + 24 := ⟨x.log2 - 24, by omega⟩
    obtain ⟨hlo, hhi⟩ := quotient_bounds hk
    rw [rneSignificand_of_log2_eq hk]
    obtain ⟨hq, -⟩ | ⟨hq, -⟩ := roundedQuotient_cases (x / 2 ^ (k + 1)) (x % 2 ^ (k + 1)) (2 ^ k) <;>
      rw [hq] <;> omega

theorem log2_le_of_lt {x : Nat} (h : x < 2 ^ 48) : x.log2 ≤ 47 := by
  obtain rfl | hx := eq_or_ne x 0
  · simp
  · exact Nat.lt_succ_iff.1 ((Nat.log2_lt hx).2 h)

theorem rne32_toNat {x : Nat} (h : x ≠ 0) (hx : x < 2 ^ 48) :
    (rne32 x).toNat = (x.log2 + 127) * 2 ^ 23 + (rneSignificand x - 2 ^ 23) := by
  obtain ⟨-, hhi⟩ := rneSignificand_bounds h
  have hlog := log2_le_of_lt hx
  rw [rne32_eq h, BitVec.toNat_ofNat, Nat.mod_eq_of_lt (by omega)]

/-- The value of `rne32 x`: its significand at the place of x's leading bit. -/
theorem F_rne32 {x : Nat} (h : x ≠ 0) (hx : x < 2 ^ 48) :
    F (rne32 x) = .finite (rneSignificand x * 2 ^ (x.log2 + 126) : Nat) := by
  obtain ⟨hlo, hhi⟩ := rneSignificand_bounds h
  have hlog := log2_le_of_lt hx
  have hn := rne32_toNat h hx
  have hmsb : (rne32 x).msb = false := BitVec.msb_eq_false_iff_two_mul_lt.2 (by omega)
  rw [F_of_nonneg hmsb (by omega), hn, patternUnits_normal (x.log2 + 126) (by omega), Nat.add_sub_cancel' hlo]

/-- An integer of at most 24 bits is a binary32 value. -/
theorem F_rne32_of_lt {x : Nat} (h : x < 2 ^ 24) : F (rne32 x) = .finite (x * 2 ^ 149) := by
  obtain rfl | hx := eq_or_ne x 0
  · exact F_plusZero
  · have hlog : x.log2 ≤ 23 := Nat.lt_succ_iff.1 ((Nat.log2_lt hx).2 h)
    have hp : 2 ^ (23 - x.log2) * 2 ^ (x.log2 + 126) = 2 ^ 149 := by rw [← pow_add]; congr 1; omega
    rw [F_rne32 hx (by omega), rneSignificand_of_log2_le hlog, mul_assoc, hp]
    norm_num

/-- The last bit of the pattern is that of the significand. -/
theorem rne32_getLsbD_zero {x : Nat} (h : x ≠ 0) (hx : x < 2 ^ 48) :
    (rne32 x).getLsbD 0 = decide (rneSignificand x % 2 = 1) := by
  obtain ⟨hlo, -⟩ := rneSignificand_bounds h
  rw [BitVec.getLsbD, rne32_toNat h hx, Nat.testBit_zero,
    show ((x.log2 + 127) * 2 ^ 23 + (rneSignificand x - 2 ^ 23)) % 2 = rneSignificand x % 2 by omega]

/-- Above 24 bits x lies between two neighbouring significands, q and q + 1, in units of 2^(k+1); `rne32`
takes the nearer, and the even one when x is half-way. -/
theorem rneSignificand_nearest {x k : Nat} (h : x.log2 = k + 24) :
    ∃ q, 2 ^ 23 ≤ q ∧ q < 2 ^ 24 ∧ q * 2 ^ (k + 1) ≤ x ∧ x ≤ (q + 1) * 2 ^ (k + 1) ∧
      ((rneSignificand x = q ∧ 2 * x ≤ q * 2 ^ (k + 1) + (q + 1) * 2 ^ (k + 1)) ∨
        (rneSignificand x = q + 1 ∧ q * 2 ^ (k + 1) + (q + 1) * 2 ^ (k + 1) ≤ 2 * x)) ∧
      (2 * x = q * 2 ^ (k + 1) + (q + 1) * 2 ^ (k + 1) → rneSignificand x % 2 = 0) := by
  obtain ⟨hlo, hhi⟩ := quotient_bounds h
  have hx := Nat.div_add_mod' x (2 ^ (k + 1))
  have hr := Nat.mod_lt x (y := 2 ^ (k + 1)) (by positivity)
  have hcases := roundedQuotient_cases (x / 2 ^ (k + 1)) (x % 2 ^ (k + 1)) (2 ^ k)
  rw [← rneSignificand_of_log2_eq h] at hcases
  refine ⟨x / 2 ^ (k + 1), hlo, hhi, ?_⟩
  have hstep : 2 ^ (k + 1) = 2 * 2 ^ k := pow_succ' 2 k
  rw [Nat.add_mul, Nat.one_mul]
  omega

/-- No finite value lies strictly between two neighbouring significands at one exponent. -/
theorem finite_le_or_ge_normal {b : Word} {v : Int} (h : F b = .finite v) (k : Nat) {q : Nat}
    (hlo : 2 ^ 23 ≤ q) (hhi : q < 2 ^ 24) : v ≤ (q * 2 ^ k : Nat) ∨ ((q + 1) * 2 ^ k : Nat) ≤ v := by
  have hgap := finite_le_or_ge h ((k + 1) * 2 ^ 23 + (q - 2 ^ 23))
  rwa [Nat.add_assoc, patternUnits_normal k (by omega), patternUnits_normal k (by omega), ← Nat.add_assoc,
    Nat.add_sub_cancel' hlo] at hgap

/-- Rounding y, between a and b, to the nearer of the two is best among all v outside the gap, and another v
is as near only at u itself or with y half-way. -/
theorem nearest_of_gap {a b y u v : Int} (hay : a ≤ y) (hyb : y ≤ b) (hv : v ≤ a ∨ b ≤ v)
    (hu : (u = a ∧ 2 * y ≤ a + b) ∨ (u = b ∧ a + b ≤ 2 * y)) :
    |u - y| ≤ |v - y| ∧ (|u - y| = |v - y| → v = u ∨ 2 * y = a + b) := by
  obtain ⟨huy, hu_sign⟩ | ⟨huy, hu_sign⟩ := abs_cases (u - y) <;>
    obtain ⟨hvy, hv_sign⟩ | ⟨hvy, hv_sign⟩ := abs_cases (v - y) <;> omega

/-- Above 24 bits no finite value is nearer to x than `rne32 x`, and where one is as near the pattern of
`rne32 x` is even. -/
theorem rne32_nearest {x k : Nat} (hk : x.log2 = k + 24) (hx : x < 2 ^ 48) {b : Word} {u v : Int}
    (hu : F (rne32 x) = .finite u) (hv : F b = .finite v) :
    |u - (x : Int) * 2 ^ 149| ≤ |v - (x : Int) * 2 ^ 149| ∧
      (|u - (x : Int) * 2 ^ 149| = |v - (x : Int) * 2 ^ 149| →
        v = u ∨ (rne32 x).getLsbD 0 = false) := by
  have h0 : x ≠ 0 := by rintro rfl; simp at hk
  obtain ⟨q, hlo, hhi, hqx, hxq, hround, heven⟩ := rneSignificand_nearest hk
  have hgap := finite_le_or_ge_normal hv (k + 150) hlo hhi
  have hpow : (2 : Nat) ^ (k + 150) = 2 ^ (k + 1) * 2 ^ 149 := by rw [← pow_add]
  rw [F_rne32 h0 hx, hk, show k + 24 + 126 = k + 150 from rfl, Value.finite.injEq] at hu
  simp only [hpow, ← mul_assoc] at hgap hu
  generalize hlower : q * 2 ^ (k + 1) = lower at *
  generalize hupper : (q + 1) * 2 ^ (k + 1) = upper at *
  have hend : (u = (lower * 2 ^ 149 : Nat) ∧ 2 * ((x : Int) * 2 ^ 149) ≤
        (lower * 2 ^ 149 : Nat) + (upper * 2 ^ 149 : Nat)) ∨
      (u = (upper * 2 ^ 149 : Nat) ∧
        ((lower * 2 ^ 149 : Nat) + (upper * 2 ^ 149 : Nat) : Int) ≤ 2 * ((x : Int) * 2 ^ 149)) := by
    obtain ⟨hs, hnear⟩ | ⟨hs, hnear⟩ := hround
    · rw [hs, hlower] at hu; omega
    · rw [hs, hupper] at hu; omega
  obtain ⟨hle, htie⟩ := nearest_of_gap (by omega) (by omega) hgap hend
  refine ⟨hle, fun heq => (htie heq).imp_right fun hhalf => ?_⟩
  rw [rne32_getLsbD_zero h0 hx, heven (by omega)]
  rfl

end Sys2Proof.Machine
end

section
/-! What every operation leaves of the parameters, and what it adds to the messages, each read off `Does`. -/

namespace Sys2Proof.Machine

@[simp] theorem frameStart_params (b : Block) : b.frameStart.params = b.params := by
  unfold Block.frameStart; split <;> rfl

@[simp] theorem frameStart_outq (b : Block) : b.frameStart.outq = b.outq := by
  unfold Block.frameStart; split <;> rfl

@[simp] theorem consider_params (b : Block) (m : Word) : (b.consider m).params = b.params := by
  unfold Block.consider; split <;> rfl

@[simp] theorem consider_outq (b : Block) (m : Word) : (b.consider m).outq = b.outq := by
  unfold Block.consider; split <;> rfl

@[simp] theorem advance_params (b : Block) : b.advance.params = b.params := by
  unfold Block.advance; split <;> rfl

@[simp] theorem advance_outq (b : Block) : b.advance.outq = b.outq := by
  unfold Block.advance; split <;> rfl

@[simp] theorem beat_params (b : Block) (m : Word) : (b.beat m).params = b.params := by
  simp [Block.beat]

@[simp] theorem beat_outq (b : Block) (m : Word) : (b.beat m).outq = b.outq := by
  simp [Block.beat]

@[simp] theorem inject_params (b : Block) : b.inject.params = b.params := by
  unfold Block.inject; split <;> rfl

@[simp] theorem inject_outq (b : Block) : b.inject.outq = b.outq := by
  unfold Block.inject; split <;> rfl

/-- A reaction changes the tracker's state and appends at most two messages to outq (R177 to R181). -/
theorem react_eq_append (b : Block) (p : Pitch) :
    ∃ new trk, b.react p = { b with outq := b.outq ++ new, trk := trk } ∧ new.length ≤ 2 := by
  obtain ⟨-, -, h⟩ | ⟨-, -, h⟩ | ⟨n, a, -, -, -, -, h⟩ | ⟨n, a, -, -, -, h⟩ | ⟨n, a, -, -, h⟩ :=
    react_cases b p
  · exact ⟨[], b.trk, by simp [h], by simp⟩
  · exact ⟨[noteOnMsg (note p.freq)], _, h, by simp⟩
  · exact ⟨[], b.trk, by simp [h], by simp⟩
  · exact ⟨[noteOffMsg n, noteOnMsg (note p.freq)], .playing (note p.freq) p.amp,
      by simp [h, Block.emit], by simp⟩
  · exact ⟨[noteOffMsg n], .idle, h, by simp⟩

@[simp] theorem react_params (b : Block) (p : Pitch) : (b.react p).params = b.params := by
  obtain ⟨new, trk, h, -⟩ := react_eq_append b p
  rw [h]

theorem Stores.params_eq {b b' : Block} (h : Stores b b') : b'.params = b.params := by
  obtain ⟨_, _, _, _, _, _, rfl, -⟩ := h
  rfl

theorem Stores.outq_eq {b b' : Block} (h : Stores b b') : b'.outq = b.outq := by
  obtain ⟨_, _, _, _, _, _, rfl, -⟩ := h
  rfl

/-- No operation writes the parameters. -/
theorem Does.params_eq {s t : State} {i : Instr} (h : Does s i t) : t.block.params = s.block.params := by
  cases h with
  | waits => rfl
  | answers => rfl
  | stores _ _ hb _ => exact hb.params_eq
  | injects => simp
  | softResets => simp
  | beats => simp
  | tracks => simp
  | accepts => rfl
  | refuses => rfl
  | hardResets => simp

/-- What an operation that is neither a reset nor SinkError appends to the messages emitted so far. -/
theorem Does.emitted_eq_append {s t : State} {i : Instr} (h : Does s i t) (hr : ¬ resets i)
    (he : i ≠ .sinkError) :
    ∃ new, t.emitted = s.emitted ++ new ∧ new.length ≤ 2 ∧ (new ≠ [] → i = .trackStep) := by
  have silent : t.emitted = s.emitted →
      ∃ new, t.emitted = s.emitted ++ new ∧ new.length ≤ 2 ∧ (new ≠ [] → i = .trackStep) :=
    fun h => ⟨[], by simp [h], by simp, by simp⟩
  cases h with
  | waits => exact silent rfl
  | answers => exact silent rfl
  | stores _ _ hb _ => exact silent (by simp [State.emitted, hb.outq_eq])
  | injects => exact silent (by simp [State.emitted])
  | softResets d => exact absurd (.inr ⟨d, rfl⟩) hr
  | beats => exact silent (by simp [State.emitted])
  | tracks p rest _ _ _ =>
    obtain ⟨new, trk, hreact, hlen⟩ := react_eq_append { s.block with fifo := rest } p
    exact ⟨new, by simp [State.emitted, hreact], hlen, fun _ => rfl⟩
  | accepts _ m rest _ _ hq => exact silent (by simp [State.emitted, hq])
  | refuses => exact absurd rfl he
  | hardResets => exact absurd (.inl rfl) hr

/-- The trace grows only by the head of outq, as SINK takes it. -/
theorem Does.trace_cases {s t : State} {i : Instr} (h : Does s i t) :
    t.world.trace = s.world.trace ∨
      ∃ m, accepting i m ∧ s.block.outq = m :: t.block.outq ∧ t.world.trace = s.world.trace ++ [m] := by
  cases h with
  | accepts _ m _ hi _ hq => exact .inr ⟨m, hi, hq, rfl⟩
  | _ => exact .inl rfl

end Sys2Proof.Machine
end

section
/-! Events that are not enabled, and what a step does with the word it fetches. -/

namespace Sys2Proof.Machine

/-- An event that is not enabled leaves the state as it is (log 4). -/
theorem exec_of_not_enabled {i : Instr} {s : State} (h : eventEnabled i s.block = false) :
    exec i s = .next s := by
  cases i with
  | sinBeat | trackStep | sinkAccept | sinkError | noteOn | noteOff => exact if_neg (ne_true_of_eq_false h)
  | _ => cases h

theorem trackStepEnabled_eq_false {b : Block} (h : b.fault = true ∨ b.outq ≠ [] ∨ b.fifo = []) :
    b.trackStepEnabled = false := by
  rw [← Bool.not_eq_true, trackStepEnabled_iff]
  rintro ⟨hf, hq, p, rest, hp⟩
  simp [hf, hq, hp] at h

theorem sinkEnabled_eq_false {b : Block} (h : b.fault = true ∨ b.outq = []) : b.sinkEnabled = false := by
  rw [← Bool.not_eq_true, sinkEnabled_iff]
  rintro ⟨hf, m, rest, hq⟩
  simp [hf, hq] at h

theorem messageEnabled_eq_false {b : Block} {m : Midi} (h : b.fault = true ∨ b.outq.head? ≠ some m) :
    b.messageEnabled m = false := by
  rw [← Bool.not_eq_true, messageEnabled_iff]
  rintro ⟨hf, rest, hq⟩
  simp [hf, hq] at h

/-- The turn of an agent that gives a word: its operation happens when enabled, else the turn goes by. -/
theorem step_of_fetch {s u : State} {p : PortWord} {i : Instr} (hf : s.fetch = some (p, u))
    (hd : decode p = .ok i) :
    step s = if eventEnabled i s.block then exec i u else .next s.passTurn := by
  simp only [step, hf, hd]

theorem step_of_fetch_none {s : State} (hf : s.fetch = none) : step s = .next s.passTurn := by
  simp only [step, hf]

/-- A table word that names an operation is a port word that decodes to it. -/
theorem decodeTableWord_eq_some {nbits w : Nat} {i : Instr} (h : decodeTableWord nbits w = some i) :
    ∃ p, portWordOfTable nbits w = some p ∧ decode p = .ok i := by
  obtain ⟨p, hp, hi⟩ := Option.bind_eq_some_iff.1 h
  refine ⟨p, hp, ?_⟩
  cases hd : decode p with
  | error e => rw [hd] at hi; cases hi
  | ok j => rw [hd] at hi; cases hi; rfl

theorem withFetchWord_eq_offer {nbits w : Nat} {p : PortWord} (h : portWordOfTable nbits w = some p)
    (s : State) : s.withFetchWord nbits w = s.offer p := by
  simp only [State.withFetchWord, h]

end Sys2Proof.Machine
end

section
/-! The obligations of spec/00_scope.md. -/

namespace Sys2Proof.Machine

/-- Settles O30: up to 24 bits the rounded value is x itself, above it is the nearer of x's neighbours. -/
theorem roundingIsNearestTiesToEven : Obligations.RoundingIsNearestTiesToEven := by
  intro x hx
  by_cases hlog : x.log2 ≤ 23
  · have h24 : x < 2 ^ 24 := Nat.lt_log2_self.trans_le (Nat.pow_le_pow_right (by norm_num) (by omega))
    refine ⟨_, F_rne32_of_lt h24, fun _ => rfl, fun b v _ => ?_⟩
    rw [sub_self, abs_zero]
    exact ⟨abs_nonneg _, fun h => .inl (sub_eq_zero.1 (abs_eq_zero.1 h.symm))⟩
  · obtain ⟨k, hk⟩ : ∃ k, x.log2 = k + 24 := ⟨x.log2 - 24, by omega⟩
    have h0 : x ≠ 0 := by rintro rfl; simp at hk
    refine ⟨_, F_rne32 h0 hx, fun h24 => ?_, fun b v hv => rne32_nearest hk hx (F_rne32 h0 hx) hv⟩
    exact absurd ((Nat.log2_lt h0).2 h24) (by omega)

/-- Settles O33: a pattern up to +inf stands at its own number in the order of values, and with the sign bit
at that number's negative. -/
theorem comparisonsOrderPatterns : Obligations.ComparisonsOrderPatterns := by
  refine ⟨fun a b => comparisons_of_nan, fun a b ha hb => ?_⟩
  have hpa : |(a.toNat : Int)| ≤ 0x7F800000 := by rw [Nat.abs_cast]; exact_mod_cast ha
  have hpb : |(b.toNat : Int)| ≤ 0x7F800000 := by rw [Nat.abs_cast]; exact_mod_cast hb
  have hna : |(-a.toNat : Int)| ≤ 0x7F800000 := by rwa [abs_neg]
  have hnb : |(-b.toNat : Int)| ≤ 0x7F800000 := by rwa [abs_neg]
  obtain ⟨gt_pp, ge_pp, le_pp⟩ := comparisons_of_places (F_eq_valueAt ha) (F_eq_valueAt hb) hpa hpb
  obtain ⟨gt_nn, ge_nn, le_nn⟩ :=
    comparisons_of_places (F_or_signBit_eq_valueAt ha) (F_or_signBit_eq_valueAt hb) hna hnb
  obtain ⟨gt_pn, ge_pn, le_pn⟩ :=
    comparisons_of_places (F_eq_valueAt ha) (F_or_signBit_eq_valueAt hb) hpa hnb
  obtain ⟨gt_np, ge_np, le_np⟩ :=
    comparisons_of_places (F_or_signBit_eq_valueAt ha) (F_eq_valueAt hb) hna hpb
  rw [← Bool.not_eq_true, gt_pp, ge_pp, le_pp, gt_nn, ge_nn, le_nn, gt_pn, ge_pn, le_pn, gt_np, ge_np, le_np]
  omega

/-- Settles O47, by what each operation does and what fetching keeps. -/
theorem parametersNeverChange : Obligations.ParametersNeverChange := by
  intro s t h
  obtain rfl | ⟨p, u, i, hf, -, -, hx⟩ := step_cases h
  · rfl
  · obtain ⟨hb, -, -⟩ := fetch_keeps hf
    rw [(exec_cases hx).params_eq, hb]

/-- Settles O50, by what each operation does. -/
theorem messagesKeepTheirOrder : Obligations.MessagesKeepTheirOrder := by
  intro i s t h
  have hdoes := exec_cases h
  refine ⟨hdoes.emitted_eq_append, hdoes.trace_cases.imp_right ?_⟩
  rintro ⟨m, hi, hgrow⟩
  refine ⟨?_, m, hgrow⟩
  obtain rfl | ⟨n, rfl, -⟩ | ⟨n, rfl, -⟩ := hi
  · exact .inl rfl
  · exact .inr (.inl ⟨n, rfl⟩)
  · exact .inr (.inr ⟨n, rfl⟩)

/-- Settles O43: none of these events is enabled, and `exec_of_not_enabled` says what follows. -/
theorem disabledEventsChangeNothing : Obligations.DisabledEventsChangeNothing := fun _ =>
  ⟨fun h => exec_of_not_enabled (trackStepEnabled_eq_false h),
    fun h => ⟨exec_of_not_enabled (sinkEnabled_eq_false h), exec_of_not_enabled (sinkEnabled_eq_false h)⟩,
    fun _ h => exec_of_not_enabled (messageEnabled_eq_false h),
    fun _ h => exec_of_not_enabled (messageEnabled_eq_false h)⟩

/-- Settles O55. The agents' turns are the branches of `State.fetch`; a table word put first is fetched next
by `fetch_offer`. -/
theorem stepRunsTheDecodedOperation : Obligations.StepRunsTheDecodedOperation := by
  refine ⟨?_, ?_, ?_, ?_, ?_, ?_⟩
  · intro s u p i hf hd he
    rw [step_of_fetch hf hd, if_pos he]
  · intro s ts h hs ht hi
    simp [State.fetch, State.passTurn, ht, hi]
  · intro s ts m ms ht hi
    simp [State.fetch, State.passTurn, ht, hi]
  · intro s ts e ht
    simp [State.fetch, State.passTurn, ht]
  · intro s ts wd ht
    simp [State.fetch, State.passTurn, ht]
  · intro s nbits w i hw he
    obtain ⟨p, hp, hd⟩ := decodeTableWord_eq_some hw
    rw [withFetchWord_eq_offer hp, step_of_fetch (fetch_offer s p) hd, State.offer_block, if_pos he]

/-- Settles O56: passing the turn drops it and leaves all else. -/
theorem disabledTurnsGoBy : Obligations.DisabledTurnsGoBy := by
  refine ⟨fun s u p i hf hd he => ?_, fun s hf => step_of_fetch_none hf⟩
  rw [step_of_fetch hf hd, he]
  rfl

end Sys2Proof.Machine
end

section
/-! The block's invariant (spec/10_state.md R22 to R41): each operation of the block keeps it, so every operation
that `Does` lists does. -/

namespace Sys2Proof.Machine

/-! ### Legal frame sizes -/

theorem legal_iff (p : Params) : p.legal = true ↔
    13 ≤ p.log2nMax ∧ p.log2nMax ≤ 16 ∧ 1 ≤ p.fifoDepth ∧ p.fifoDepth ≤ 255 := by
  simp [Params.legal, and_assoc]

theorem log2nLegal_iff (p : Params) (v : BitVec 5) :
    Params.log2nLegal p v = true ↔ 1 ≤ v.toNat ∧ v.toNat ≤ p.log2nMax := by
  rw [Params.log2nLegal, log2nMin, Bool.and_eq_true, decide_eq_true_iff, decide_eq_true_iff]

/-- A legal frame has at least 2 bins and at most 2^16, what the bin counter can hold. -/
theorem frame_bounds {p : Params} {v : BitVec 5} (hp : p.legal = true) (hv : Params.log2nLegal p v = true) :
    2 ≤ 2 ^ v.toNat ∧ 2 ^ v.toNat ≤ 2 ^ 16 := by
  obtain ⟨-, hmax, -, -⟩ := (legal_iff p).1 hp
  obtain ⟨hlo, hhi⟩ := (log2nLegal_iff p v).1 hv
  exact ⟨Nat.le_self_pow (by omega) 2, Nat.pow_le_pow_right (by norm_num) (by omega)⟩

theorem Block.Inv.frameSize_bounds {b : Block} (h : b.Inv) : 2 ≤ b.frameSize ∧ b.frameSize ≤ 2 ^ 16 :=
  frame_bounds h.params_legal h.lat_log2n_legal

/-! ### The resets -/

/-- The placeholder of the running maximum is not below +0.0. -/
theorem ge_plusZero_self : ge plusZero plusZero = true := by decide

theorem resetLog2n_legal {p : Params} (hp : p.legal = true) : Params.log2nLegal p resetLog2n = true := by
  obtain ⟨hmax, -⟩ := (legal_iff p).1 hp
  exact (log2nLegal_iff p resetLog2n).2 ⟨by decide, hmax⟩

/-- A soft reset of any block with legal parameters and a legal LOG2N. -/
theorem softReset_inv {b : Block} (hp : b.params.legal = true)
    (hl : Params.log2nLegal b.params b.cfgLog2n = true) : b.softReset.Inv where
  params_legal := hp
  cfg_log2n_legal := hl
  lat_log2n_legal := hl
  bin_in_frame := Nat.two_pow_pos b.cfgLog2n.toNat
  best_in_lower_half := by
    obtain ⟨hlo, -⟩ := frame_bounds hp hl
    exact Nat.div_pos hlo (by norm_num)
  best_not_negative := ge_plusZero_self
  placeholder_bin _ := rfl
  fifo_bounded := Nat.zero_le _
  outq_bounded := Nat.zero_le _
  halted_offers_nothing _ := rfl
  cause_follows_fault := rfl
  no_fault_no_message _ := rfl
  playing_amp_live _ _ h := by cases h
  readback_unset _ := ⟨rfl, rfl, rfl, rfl⟩
  readback_dead h := by cases h

/-- The hard-reset block is its own soft reset. -/
theorem reset_inv {p : Params} (hp : p.legal = true) : (Block.reset p).Inv :=
  softReset_inv (b := Block.reset p) hp (resetLog2n_legal hp)

/-! ### The host -/

theorem Block.Inv.stores {b b' : Block} (h : b.Inv) (hb : Stores b b') : b'.Inv := by
  obtain ⟨_, _, l, _, _, _, rfl, hl⟩ := hb
  have hlegal : Params.log2nLegal b.params l = true := by
    obtain rfl | hl := hl
    · exact h.cfg_log2n_legal
    · exact hl
  exact { h with cfg_log2n_legal := hlegal }

/-- Pushing a record into a FIFO with room. -/
theorem Block.Inv.push {b : Block} (h : b.Inv) (p : Pitch) (hroom : b.fifo.length ≠ b.params.fifoDepth) :
    (b.push p).Inv := by
  have hlt := Nat.lt_of_le_of_ne h.fifo_bounded hroom
  exact { h with fifo_bounded := by simpa using hlt }

/-- An injection drops the record or pushes it (R106). -/
theorem inject_cases (b : Block) :
    b.inject = { b with injDrop := true } ∨
    (b.fifo.length ≠ b.params.fifoDepth ∧ b.inject = b.push ⟨b.injFreq, b.injAmp⟩) := by
  unfold Block.inject
  split
  · exact .inl rfl
  · rename_i h
    refine .inr ⟨?_, rfl⟩
    simp only [Bool.or_eq_true, not_or, Block.fifoFull, beq_iff_eq] at h
    exact h.2

theorem Block.Inv.inject {b : Block} (h : b.Inv) : b.inject.Inv := by
  obtain heq | ⟨hroom, heq⟩ := inject_cases b
  · rw [heq]; exact { h with }
  · rw [heq]; exact h.push _ hroom

/-! ### The PICKER -/

theorem Block.Inv.frameStart {b : Block} (h : b.Inv) : b.frameStart.Inv := by
  by_cases hbin : b.bin = 0
  · obtain ⟨hlo, -⟩ := frame_bounds h.params_legal h.cfg_log2n_legal
    rw [frameStart_at_start hbin]
    exact { h with
      lat_log2n_legal := h.cfg_log2n_legal
      bin_in_frame := by rw [hbin]; exact Nat.two_pow_pos b.cfgLog2n.toNat
      best_in_lower_half := Nat.div_pos hlo (by norm_num)
      best_not_negative := ge_plusZero_self
      placeholder_bin := fun _ => rfl }
  · rwa [frameStart_of_active hbin]

/-- A magnitude that replaces the running maximum is above it, so above +0.0 and no placeholder. -/
theorem Block.Inv.consider {b : Block} (h : b.Inv) (m : Word) : (b.consider m).Inv := by
  obtain ⟨heq, -⟩ | ⟨heq, hhalf, -, hgt⟩ := consider_cases b m
  · rwa [heq]
  · have hpos : gt m plusZero = true := gt_of_gt_of_ge hgt h.best_not_negative
    rw [heq]
    exact { h with
      best_in_lower_half := hhalf
      best_not_negative := ge_of_gt hpos
      placeholder_bin := by rintro rfl; simp [gt_irrefl] at hpos }

/-- Inside a frame the bin counter does not overflow. -/
theorem Block.Inv.bin_succ {b : Block} (h : b.Inv) (hend : b.bin.toNat ≠ b.frameSize - 1) :
    (b.bin + 1).toNat = b.bin.toNat + 1 ∧ b.bin.toNat + 1 < b.frameSize := by
  obtain ⟨-, hhi⟩ := h.frameSize_bounds
  have hin := h.bin_in_frame
  exact ⟨BitVec.toNat_add_of_lt (show b.bin.toNat + 1 < 2 ^ 16 by omega), by omega⟩

/-- The end of a frame pushes its Pitch, so it needs room in the FIFO. -/
theorem Block.Inv.advance {b : Block} (h : b.Inv)
    (hroom : b.bin.toNat = b.frameSize - 1 → b.fifo.length ≠ b.params.fifoDepth) : b.advance.Inv := by
  by_cases hend : b.bin.toNat = b.frameSize - 1
  · rw [advance_at_end hend]
    exact { h.push b.framePitch (hroom hend) with
      bin_in_frame := Nat.two_pow_pos b.latLog2n.toNat
      readback_unset := by rintro ⟨⟩
      readback_dead := fun _ => rfl }
  · obtain ⟨hsucc, hlt⟩ := h.bin_succ hend
    rw [advance_inside hend]
    exact { h with bin_in_frame := hsucc.trans_lt hlt }

@[simp] theorem frameStart_fifo (b : Block) : b.frameStart.fifo = b.fifo := by
  unfold Block.frameStart; split <;> rfl

@[simp] theorem consider_fifo (b : Block) (m : Word) : (b.consider m).fifo = b.fifo := by
  unfold Block.consider; split <;> rfl

/-- A beat that is enabled has room for the Pitch it may push: the first bin of a frame is never its last
(R150). -/
theorem Block.Inv.beat {b : Block} (h : b.Inv) (m : Word) (he : b.beatEnabled = true) : (b.beat m).Inv := by
  refine (h.frameStart.consider m).advance fun hend => ?_
  obtain ⟨-, hwait⟩ := (beatEnabled_iff b).1 he
  obtain ⟨hlo, -⟩ := h.frameStart.frameSize_bounds
  rw [consider_bin, consider_frameSize, frameStart_bin] at hend
  have hbin : b.bin ≠ 0 := by rintro h0; rw [h0] at hend; simp at hend; omega
  rw [frameStart_of_active hbin] at hend
  simpa using fun hfull => hwait ⟨hbin, hend, hfull⟩

/-! ### The TRACKER -/

/-- A stored amplitude is that of a live Pitch (R39, R171). -/
theorem amp_of_live {p : Pitch} (h : p.dead = false) : ge p.amp deadLevel = true := by
  simp only [Pitch.dead, dead, Bool.or_eq_false_iff, Bool.not_eq_false'] at h
  exact h.1

/-- The amplitude a reaction leaves stored is the one before or that of a live Pitch. -/
theorem react_amp_live {b : Block} (p : Pitch)
    (h : ∀ n a, b.trk = .playing n a → ge a deadLevel = true) (n : BitVec 7) (a : Word)
    (ht : (b.react p).trk = .playing n a) : ge a deadLevel = true := by
  obtain ⟨-, -, heq⟩ | ⟨-, hlive, heq⟩ | ⟨_, _, -, -, -, -, heq⟩ | ⟨_, _, -, hlive, -, heq⟩ |
    ⟨_, _, -, -, heq⟩ := react_cases b p
  · rw [heq] at ht; exact h n a ht
  · rw [heq] at ht; cases ht; exact amp_of_live hlive
  · rw [heq] at ht; exact h n a ht
  · rw [heq] at ht; cases ht; exact amp_of_live hlive
  · rw [heq] at ht; cases ht

/-- A reaction to a Pitch, in a block that runs and offers nothing. -/
theorem Block.Inv.react {b : Block} (h : b.Inv) (p : Pitch) (hf : b.fault = false) (hq : b.outq = []) :
    (b.react p).Inv := by
  have hamp := react_amp_live p h.playing_amp_live
  obtain ⟨new, trk, heq, hlen⟩ := react_eq_append b p
  rw [heq] at hamp ⊢
  exact { h with
    outq_bounded := by simpa [hq] using hlen
    halted_offers_nothing := by simp [hf]
    playing_amp_live := hamp }

theorem Block.Inv.pop {b : Block} (h : b.Inv) {p : Pitch} {rest : List Pitch} (hp : b.fifo = p :: rest) :
    ({ b with fifo := rest } : Block).Inv := by
  have hlen := h.fifo_bounded
  rw [hp, List.length_cons] at hlen
  exact { h with fifo_bounded := Nat.le_of_succ_le hlen }

/-! ### SINK -/

theorem Block.Inv.accept {b : Block} (h : b.Inv) {m : Midi} {rest : List Midi} (hf : b.fault = false)
    (hq : b.outq = m :: rest) : ({ b with outq := rest } : Block).Inv := by
  have hlen := h.outq_bounded
  rw [hq, List.length_cons] at hlen
  exact { h with
    outq_bounded := Nat.le_of_succ_le hlen
    halted_offers_nothing := by simp [hf] }

theorem Block.Inv.raiseMidiSendError {b : Block} (h : b.Inv) (m : Midi) : (b.raiseMidiSendError m).Inv :=
  { h with
    outq_bounded := Nat.zero_le _
    halted_offers_nothing := fun _ => rfl
    cause_follows_fault := rfl
    no_fault_no_message := by rintro ⟨⟩ }

/-! ### Every operation -/

/-- Every operation keeps the block's invariant. -/
theorem Does.inv {s t : State} {i : Instr} (hd : Does s i t) (h : s.block.Inv) : t.block.Inv := by
  cases hd with
  | waits => exact h
  | answers => exact h
  | stores _ _ hb => exact h.stores hb
  | injects => exact h.inject
  | softResets => exact softReset_inv h.params_legal h.cfg_log2n_legal
  | beats m he => exact h.beat m he
  | tracks p rest hf hq hp => exact (h.pop hp).react p hf hq
  | accepts _ _ _ _ hf hq => exact h.accept hf hq
  | refuses m => exact h.raiseMidiSendError m
  | hardResets => exact reset_inv h.params_legal

end Sys2Proof.Machine
end

section
/-! What `exec` answers for the events that are enabled and for the resets. -/

namespace Sys2Proof.Machine

/-- What an enabled beat does. -/
theorem exec_sinBeat_of_enabled {s : State} (m : Word) (h : s.block.beatEnabled = true) :
    exec (.sinBeat m) s = .next (s.withBlock (s.block.beat m)) := if_pos h

/-- What the two resets do to the block; neither changes the trace (R43). -/
theorem exec_of_resets {i : Instr} {s t : State} (hr : resets i) (h : exec i s = .next t) :
    (t.block = s.block.hardReset ∨ t.block = s.block.softReset) ∧ t.world.trace = s.world.trace := by
  obtain rfl | ⟨d, rfl⟩ := hr
  · cases h; exact ⟨.inl rfl, rfl⟩
  · cases h; exact ⟨.inr rfl, rfl⟩

/-- What an enabled step of the tracker does. -/
theorem exec_trackStep_of_enabled {s : State} {p : Pitch} {rest : List Pitch} (hf : s.block.fault = false)
    (hq : s.block.outq = []) (hp : s.block.fifo = p :: rest) :
    exec .trackStep s = .next (s.withBlock (({ s.block with fifo := rest }).react p)) := by
  rw [← trackStep_eq hp]
  exact if_pos ((trackStepEnabled_iff _).2 ⟨hf, hq, p, rest, hp⟩)

/-- The operations by which SINK takes the message offered all do the same. -/
theorem exec_of_accepting {i : Instr} {s : State} {m : Midi} {rest : List Midi} (hi : accepting i m)
    (hf : s.block.fault = false) (hq : s.block.outq = m :: rest) :
    exec i s = .next ((s.withBlock { s.block with outq := rest }).deliver m) := by
  rw [← sinkAccept_eq hq]
  obtain rfl | ⟨n, rfl, rfl⟩ | ⟨n, rfl, rfl⟩ := hi
  · exact if_pos ((sinkEnabled_iff _).2 ⟨hf, m, rest, hq⟩)
  · exact if_pos ((messageEnabled_iff _ _).2 ⟨hf, rest, hq⟩)
  · exact if_pos ((messageEnabled_iff _ _).2 ⟨hf, rest, hq⟩)

end Sys2Proof.Machine
end

section
/-! What every operation leaves of the bin counter and of the Pitch FIFO (spec/10_state.md R22, R38), each read off
`Does`. -/

namespace Sys2Proof.Machine

/-! ### The bin counter -/

/-- The frame size a beat counts against: at bin 0 that of LOG2N, which it latches, else the latched one (R143). -/
theorem frameStart_frameSize (b : Block) :
    b.frameStart.frameSize = if b.bin = 0 then 2 ^ b.cfgLog2n.toNat else 2 ^ b.latLog2n.toNat := by
  by_cases hbin : b.bin = 0
  · rw [frameStart_at_start hbin, if_pos hbin]; rfl
  · rw [frameStart_of_active hbin, if_neg hbin]; rfl

/-- A beat at the last bin wraps the counter. -/
theorem beat_bin_at_end {b : Block} (m : Word) (hend : b.bin.toNat = b.frameStart.frameSize - 1) :
    (b.beat m).bin = 0 := by
  rw [Block.beat, advance_at_end (by simpa using hend), Block.frameEnd_bin]

/-- A beat before the last bin advances it. -/
theorem Block.Inv.beat_bin_inside {b : Block} (h : b.Inv) (m : Word)
    (hend : b.bin.toNat ≠ b.frameStart.frameSize - 1) : (b.beat m).bin.toNat = b.bin.toNat + 1 := by
  have hend' : (b.frameStart.consider m).bin.toNat ≠ (b.frameStart.consider m).frameSize - 1 := by
    simpa using hend
  obtain ⟨hsucc, -⟩ := (h.frameStart.consider m).bin_succ hend'
  rw [Block.beat, advance_inside hend', hsucc, consider_bin, frameStart_bin]

@[simp] theorem inject_bin (b : Block) : b.inject.bin = b.bin := by
  unfold Block.inject; split <;> rfl

@[simp] theorem react_bin (b : Block) (p : Pitch) : (b.react p).bin = b.bin := by
  obtain ⟨new, trk, heq, -⟩ := react_eq_append b p
  rw [heq]

theorem Stores.bin_eq {b b' : Block} (h : Stores b b') : b'.bin = b.bin := by
  obtain ⟨_, _, _, _, _, _, rfl, -⟩ := h
  rfl

/-- Only beats and resets touch the bin counter. -/
theorem Does.bin_eq {s t : State} {i : Instr} (h : Does s i t) (hr : ¬ resets i) (hb : ∀ m, i ≠ .sinBeat m) :
    t.block.bin = s.block.bin := by
  cases h with
  | waits => rfl
  | answers => rfl
  | stores _ _ hst => exact hst.bin_eq
  | injects => simp
  | softResets d => exact absurd (.inr ⟨d, rfl⟩) hr
  | beats m => exact absurd rfl (hb m)
  | tracks => simp
  | accepts => rfl
  | refuses => rfl
  | hardResets => exact absurd (.inl rfl) hr

/-! ### The Pitch FIFO -/

theorem advance_fifo_cases (b : Block) : b.advance.fifo = b.fifo ∨ ∃ p, b.advance.fifo = b.fifo ++ [p] := by
  unfold Block.advance
  split
  · exact .inr ⟨b.framePitch, rfl⟩
  · exact .inl rfl

/-- A beat pushes at most one record, at the tail. -/
theorem beat_fifo_cases (b : Block) (m : Word) :
    (b.beat m).fifo = b.fifo ∨ ∃ p, (b.beat m).fifo = b.fifo ++ [p] := by
  simpa [Block.beat] using advance_fifo_cases (b.frameStart.consider m)

@[simp] theorem react_fifo (b : Block) (p : Pitch) : (b.react p).fifo = b.fifo := by
  obtain ⟨new, trk, heq, -⟩ := react_eq_append b p
  rw [heq]

theorem Stores.fifo_eq {b b' : Block} (h : Stores b b') : b'.fifo = b.fifo := by
  obtain ⟨_, _, _, _, _, _, rfl, -⟩ := h
  rfl

/-- The FIFO stays, is pushed at the tail, popped at the head or emptied. -/
theorem Does.fifo_cases {s t : State} {i : Instr} (h : Does s i t) :
    t.block.fifo = s.block.fifo ∨
    (∃ p, t.block.fifo = s.block.fifo ++ [p] ∧ ((∃ m, i = .sinBeat m) ∨ ∃ d, i = .ctrlInject d)) ∨
    (∃ p, s.block.fifo = p :: t.block.fifo ∧ i = .trackStep) ∨
    (t.block.fifo = [] ∧ resets i) := by
  cases h with
  | waits => exact .inl rfl
  | answers => exact .inl rfl
  | stores _ _ hb => exact .inl hb.fifo_eq
  | injects d =>
    obtain heq | ⟨-, heq⟩ := inject_cases s.block
    · exact .inl (by simp [heq])
    · exact .inr (.inl ⟨⟨s.block.injFreq, s.block.injAmp⟩, by simp [heq], .inr ⟨d, rfl⟩⟩)
  | softResets d => exact .inr (.inr (.inr ⟨rfl, .inr ⟨d, rfl⟩⟩))
  | beats m => exact (beat_fifo_cases s.block m).imp_right fun ⟨p, hp⟩ => .inl ⟨p, hp, .inl ⟨m, rfl⟩⟩
  | tracks p _ _ _ hp => exact .inr (.inr (.inl ⟨p, by simpa using hp, rfl⟩))
  | accepts => exact .inl rfl
  | refuses => exact .inl rfl
  | hardResets => exact .inr (.inr (.inr ⟨rfl, .inl rfl⟩))

end Sys2Proof.Machine
end

section
/-! The messages and the tracker's state (spec/10_state.md R39, R40, spec/42_note_tracker.md R186, R187): what an
operation appends to outq leads the receiver from the note that was on to the note that is. -/

namespace Sys2Proof.Machine

@[simp] theorem noteOn?_noteOnMsg (n : BitVec 7) : (noteOnMsg n).noteOn? = some n := by
  have hn : (n.setWidth 8).setWidth 7 = n := by simp
  simp [Midi.noteOn?, noteOnMsg, noteToByte, hn]

/-- Messages read in two parts. -/
theorem soundingAfter_append (on : Option (BitVec 7)) (ms ns : List Midi) :
    soundingAfter on (ms ++ ns) = (soundingAfter on ms).bind fun on' => soundingAfter on' ns := by
  induction ms generalizing on with
  | nil => cases on <;> rfl
  | cons m ms ih =>
    cases on with
    | none => cases h : m.noteOn? <;> simp [soundingAfter, h, ih]
    | some n => by_cases h : m = noteOffMsg n <;> simp [soundingAfter, h, ih]

@[simp] theorem soundingAfter_nil (on : Option (BitVec 7)) : soundingAfter on [] = some on := by
  cases on <;> rfl

@[simp] theorem soundingAfter_noteOnMsg (n : BitVec 7) (ms : List Midi) :
    soundingAfter none (noteOnMsg n :: ms) = soundingAfter (some n) ms := by
  simp [soundingAfter]

@[simp] theorem soundingAfter_noteOffMsg (n : BitVec 7) (ms : List Midi) :
    soundingAfter (some n) (noteOffMsg n :: ms) = soundingAfter none ms := by
  simp [soundingAfter]

/-- The messages of a reaction lead from the note that was on to the one that is (R177 to R181). -/
theorem react_sounding (b : Block) (p : Pitch) :
    ∃ new, (b.react p).outq = b.outq ++ new ∧
      soundingAfter b.trk.note new = some (b.react p).trk.note := by
  obtain ⟨-, -, heq⟩ | ⟨ht, -, heq⟩ | ⟨n, a, -, -, -, -, heq⟩ | ⟨n, a, ht, -, -, heq⟩ | ⟨n, a, ht, -, heq⟩ :=
    react_cases b p
  · exact ⟨[], by simp [heq]⟩
  · exact ⟨[noteOnMsg (note p.freq)], by simp [heq, ht, Trk.note]⟩
  · exact ⟨[], by simp [heq]⟩
  · exact ⟨[noteOffMsg n, noteOnMsg (note p.freq)], by simp [heq, ht, Trk.note]⟩
  · exact ⟨[noteOffMsg n], by simp [heq, ht, Trk.note]⟩

@[simp] theorem frameStart_trk (b : Block) : b.frameStart.trk = b.trk := by
  unfold Block.frameStart; split <;> rfl

@[simp] theorem consider_trk (b : Block) (m : Word) : (b.consider m).trk = b.trk := by
  unfold Block.consider; split <;> rfl

@[simp] theorem advance_trk (b : Block) : b.advance.trk = b.trk := by
  unfold Block.advance; split <;> rfl

@[simp] theorem beat_trk (b : Block) (m : Word) : (b.beat m).trk = b.trk := by
  simp [Block.beat]

@[simp] theorem inject_trk (b : Block) : b.inject.trk = b.trk := by
  unfold Block.inject; split <;> rfl

theorem Stores.trk_eq {b b' : Block} (h : Stores b b') : b'.trk = b.trk := by
  obtain ⟨_, _, _, _, _, _, rfl, -⟩ := h
  rfl

/-- Only the tracker's step and the resets change the tracker's state. -/
theorem Does.trk_eq {s t : State} {i : Instr} (h : Does s i t) (hr : ¬ resets i) (hi : i ≠ .trackStep) :
    t.block.trk = s.block.trk := by
  cases h with
  | waits => rfl
  | answers => rfl
  | stores _ _ hst => exact hst.trk_eq
  | injects => simp
  | softResets d => exact absurd (.inr ⟨d, rfl⟩) hr
  | beats => simp
  | tracks => exact absurd rfl hi
  | accepts => rfl
  | refuses => rfl
  | hardResets => exact absurd (.inl rfl) hr

/-- What neither appends nor resets leaves the messages emitted so far. -/
theorem Does.emitted_eq {s t : State} {i : Instr} (h : Does s i t) (hr : ¬ resets i) (he : i ≠ .sinkError)
    (hi : i ≠ .trackStep) : t.emitted = s.emitted := by
  obtain ⟨new, heq, -, hnew⟩ := h.emitted_eq_append hr he
  have hnil : new = [] := by_contra fun hn => hi (hnew hn)
  rw [heq, hnil, List.append_nil]

/-- What a tracker's step, taken or waiting, appends leads from the note before to the note after. -/
theorem trackStep_sounding {s t : State} (h : exec .trackStep s = .next t) :
    ∃ new, soundingAfter s.block.trk.note new = some t.block.trk.note ∧
      (new ≠ [] → s.block.outq = [] ∧ t.block.outq = new) ∧ t.emitted = s.emitted ++ new := by
  cases he : s.block.trackStepEnabled with
  | false =>
    cases (exec_of_not_enabled (i := .trackStep) he).symm.trans h
    exact ⟨[], by simp⟩
  | true =>
    obtain ⟨hf, hq, p, rest, hp⟩ := (trackStepEnabled_iff _).1 he
    cases (exec_trackStep_of_enabled hf hq hp).symm.trans h
    obtain ⟨new, hout, hnote⟩ := react_sounding { s.block with fifo := rest } p
    exact ⟨new, hnote, fun _ => ⟨hq, hout.trans (by simp [hq])⟩, by simp [State.emitted, hout]⟩

/-- The messages an operation other than a reset appends lead from the note before to the note after. -/
theorem exec_sounding {i : Instr} {s t : State} (h : exec i s = .next t) (hr : ¬ resets i) :
    ∃ new, soundingAfter s.block.trk.note new = some t.block.trk.note ∧
      (new ≠ [] → i = .trackStep ∧ s.block.outq = [] ∧ t.block.outq = new) ∧
      (i ≠ .sinkError → t.emitted = s.emitted ++ new) := by
  by_cases hi : i = .trackStep
  · subst hi
    obtain ⟨new, hnote, hnew, hem⟩ := trackStep_sounding h
    exact ⟨new, hnote, fun hn => ⟨rfl, hnew hn⟩, fun _ => hem⟩
  · have hd := exec_cases h
    exact ⟨[], by simp [hd.trk_eq hr hi], by simp, fun he => by simp [hd.emitted_eq hr he hi]⟩

/-! ### Pairing -/

theorem drained_iff (b : Block) :
    b.drained = true ↔ b.fault = false ∧ b.fifo = [] ∧ b.outq = [] ∧ b.trk = .idle := by
  simp [Block.drained, and_assoc]

/-- The events that keep the pairing are not SinkError, and reset a drained block only (log 18). -/
theorem keepsPairing_excludes {i : Instr} {b : Block} (h : keepsPairing i b = true) :
    i ≠ .sinkError ∧ (resets i → b.drained = true) := by
  constructor
  · rintro rfl; cases h
  · rintro (rfl | ⟨d, rfl⟩)
    · exact h
    · exact h

/-- Pairing speaks of the block and the trace only. -/
theorem State.Paired.congr {s u : State} (h : s.Paired) (hb : u.block = s.block)
    (ht : u.world.trace = s.world.trace) : u.Paired := by
  rw [State.Paired, State.emitted, hb, ht]
  exact h

/-- Both resets of a drained block leave the messages and the Idle tracker as they are. -/
theorem State.Paired.of_resets {i : Instr} {s t : State} (hs : s.Paired) (hdr : s.block.drained = true)
    (hr : resets i) (h : exec i s = .next t) : t.Paired := by
  obtain ⟨-, -, hq, ht⟩ := (drained_iff _).1 hdr
  obtain ⟨hblock, htrace⟩ := exec_of_resets hr h
  have hfresh : t.block.outq = [] ∧ t.block.trk = .idle := by
    obtain heq | heq := hblock <;> simp [heq]
  simp only [State.Paired, State.emitted, hq, ht] at hs
  simpa only [State.Paired, State.emitted, hfresh, htrace] using hs

theorem State.Paired.exec {i : Instr} {s t : State} (hs : s.Paired) (hk : keepsPairing i s.block = true)
    (h : exec i s = .next t) : t.Paired := by
  obtain ⟨he, hdr⟩ := keepsPairing_excludes hk
  by_cases hr : resets i
  · exact hs.of_resets (hdr hr) hr h
  · obtain ⟨new, hnote, -, hem⟩ := exec_sounding h hr
    rw [State.Paired, hem he, soundingAfter_append, hs]
    exact hnote

/-- The operation a step runs is the next event. -/
theorem nextEvent_of_fetch {s u : State} {p : PortWord} {i : Instr} (hf : s.fetch = some (p, u))
    (hd : decode p = .ok i) (he : eventEnabled i s.block = true) : s.nextEvent = some i := by
  simp only [State.nextEvent, hf, hd, he, if_true]

end Sys2Proof.Machine
end

section
/-! The STATUS register (spec/10_state.md R25). -/

namespace Sys2Proof.Machine

theorem fifoFull_iff (b : Block) : b.fifoFull = true ↔ b.fifo.length = b.params.fifoDepth := by
  simp [Block.fifoFull]

theorem fifoEmptyFlag_iff (b : Block) : b.fifoEmptyFlag = true ↔ b.fifo.length = 0 := by
  simp [Block.fifoEmptyFlag]

theorem playingFlag_iff (b : Block) : b.playingFlag = true ↔ ∃ n a, b.trk = .playing n a := by
  cases h : b.trk <;> simp [Block.playingFlag, h]

theorem trkBusyFlag_iff (b : Block) : b.trkBusyFlag = true ↔ b.outq ≠ [] := by
  simp [Block.trkBusyFlag]

theorem frameActiveFlag_iff (b : Block) : b.frameActiveFlag = true ↔ b.bin ≠ 0 := by
  simp [Block.frameActiveFlag]

/-- Bits 7:0 of STATUS, each its flag. -/
theorem statusFlags_bits (b : Block) :
    b.statusFlags.getLsbD 0 = b.fault ∧ b.statusFlags.getLsbD 1 = b.injDrop ∧
    b.statusFlags.getLsbD 2 = b.fifoEmptyFlag ∧ b.statusFlags.getLsbD 3 = b.fifoFull ∧
    b.statusFlags.getLsbD 4 = b.playingFlag ∧ b.statusFlags.getLsbD 5 = b.trkBusyFlag ∧
    b.statusFlags.getLsbD 6 = b.frameActiveFlag ∧ b.statusFlags.getLsbD 7 = b.pvalid := by
  unfold Block.statusFlags
  refine ⟨?_, ?_, ?_, ?_, ?_, ?_, ?_, ?_⟩
  all_goals
    change BitVec.getLsbD (w := 1 + 1 + 1 + 1 + 1 + 1 + 1 + 1) _ _ = _
    simp only [BitVec.getLsbD_append, Nat.reduceLT, Nat.reduceSub, reduceIte, BitVec.getLsbD_ofBool, decide_true,
      Bool.true_and]

theorem statusWord_getLsbD {k : Nat} (hk : k < 8) (b : Block) :
    b.statusWord.getLsbD k = b.statusFlags.getLsbD k := BitVec.getLsbD_append.trans (if_pos hk)

/-- Bits 31:8 of STATUS: CAUSE, FIFO_COUNT and the reserved bits. -/
theorem statusWord_fields (b : Block) :
    b.statusWord.extractLsb' 8 3 = b.cause ∧ b.statusWord.extractLsb' 11 5 = 0 ∧
    b.statusWord.extractLsb' 16 8 = b.fifoCount ∧ b.statusWord.extractLsb' 24 8 = 0 := by
  have habove (k n : Nat) (hk : 8 ≤ k) : b.statusWord.extractLsb' k n =
      (0#8 ++ b.fifoCount ++ 0#5 ++ b.cause).extractLsb' (k - 8) n :=
    BitVec.extractLsb'_append_eq_of_le hk
  rw [habove 8 3 (by omega), habove 11 5 (by omega), habove 16 8 (by omega), habove 24 8 (by omega)]
  simp only [BitVec.extractLsb'_append_eq_of_le, BitVec.extractLsb'_append_eq_of_add_le, Nat.reduceSub,
    Nat.reduceLeDiff, le_refl, BitVec.extractLsb'_eq_self, BitVec.ofNat_eq_ofNat, and_self]

/-- STATUS of a reset block: FIFO_EMPTY alone, the FIFO having room for a record (R5). -/
theorem statusWord_reset {p : Params} (hp : p.legal = true) : (Block.reset p).statusWord = 4 := by
  obtain ⟨-, -, hdepth, -⟩ := (legal_iff p).1 hp
  have hfull : (Block.reset p).fifoFull = false := by
    rw [← Bool.not_eq_true, fifoFull_iff, Block.reset_fifo, Block.reset_params]
    exact Nat.ne_of_lt hdepth
  simp only [Block.statusWord, Block.statusFlags, hfull, Block.fifoCount, Block.frameActiveFlag, Block.trkBusyFlag,
    Block.playingFlag, Block.fifoEmptyFlag, Block.reset_pvalid, Block.reset_bin, Block.reset_outq, Block.reset_trk,
    Block.reset_fifo, Block.reset_injDrop, Block.reset_fault, Block.reset_cause]
  decide

/-- STATUS shows no field that a soft reset keeps. -/
theorem statusWord_softReset (b : Block) : b.softReset.statusWord = (Block.reset b.params).statusWord := rfl

end Sys2Proof.Machine
end

section
/-! The obligations of spec/10_state.md. -/

namespace Sys2Proof.Machine

/-- Settles O53: the turn goes by, or an operation happens, and `Does.inv` says that it keeps the invariant. -/
theorem everyStepKeepsTheInvariant : Obligations.EveryStepKeepsTheInvariant := by
  intro s t hs h
  obtain rfl | ⟨p, u, i, hf, -, -, hx⟩ := step_cases h
  · exact hs
  · obtain ⟨hb, -, -⟩ := fetch_keeps hf
    exact (exec_cases hx).inv (hb ▸ hs)

/-- Settles O54: the turn goes by, or the next event happens, and `State.Paired.exec` says that it keeps the
pairing. -/
theorem stepsKeepMessagesPaired : Obligations.StepsKeepMessagesPaired := by
  intro s t hs hk h
  obtain rfl | ⟨p, u, i, hf, hd, he, hx⟩ := step_cases h
  · exact hs
  · obtain ⟨hb, ht, -⟩ := fetch_keeps hf
    have hki := hk i (nextEvent_of_fetch hf hd he)
    exact (hs.congr hb ht).exec (hb ▸ hki) hx

/-- Settles O48: a beat by the frame it counts against, all else by `Does.bin_eq`, and the bound by the
invariant. -/
theorem binCounterFollowsBeatsAndResets : Obligations.BinCounterFollowsBeatsAndResets := by
  intro i s t hs h
  have hd := exec_cases h
  refine ⟨?_, ?_, fun hr => ?_, hd.bin_eq, (hd.inv hs).bin_in_frame, ?_⟩
  · rintro m rfl he
    cases (exec_sinBeat_of_enabled m he).symm.trans h
    rw [← frameStart_frameSize]
    exact ⟨fun hlt => hs.beat_bin_inside m (by omega), fun hend => beat_bin_at_end m (by omega)⟩
  · rintro m rfl he
    cases (exec_of_not_enabled (i := .sinBeat m) he).symm.trans h
    rfl
  · obtain ⟨heq | heq, -⟩ := exec_of_resets hr h
    · rw [heq]; rfl
    · rw [heq]; rfl
  · rw [BitVec.ofNat_toNat]; rfl

/-- Settles O49, by what each operation does. -/
theorem fifoIsFirstInFirstOut : Obligations.FifoIsFirstInFirstOut :=
  fun _ _ _ h => (exec_cases h).fifo_cases

/-- Settles O51: only a tracker's step appends, and its reaction leads from note to note. -/
theorem trackerStateFollowsItsMessages : Obligations.TrackerStateFollowsItsMessages := by
  intro i s t h
  refine ⟨fun hr => ?_, fun hr => ?_⟩
  · obtain ⟨heq | heq, -⟩ := exec_of_resets hr h
    · rw [heq]; exact ⟨rfl, rfl⟩
    · rw [heq]; exact ⟨rfl, rfl⟩
  · obtain ⟨new, hnote, hnew, hem⟩ := exec_sounding h hr
    have htrk := (exec_cases h).trk_eq hr
    refine ⟨new, hnote, hnew, ?_, hem, htrk⟩
    rintro rfl
    have hnil : new = [] := by_contra fun hn => nomatch (hnew hn).1
    exact ⟨hnil, htrk nofun⟩

/-- Settles O10: each bit of STATUS is its flag. -/
theorem statusReadShowsEveryFlag : Obligations.StatusReadShowsEveryFlag := by
  intro d s
  refine ⟨decode_host_of_find (by decide) d rfl, s.block.statusWord, rfl, ?_⟩
  obtain ⟨hfault, hdrop, hempty, hfull, hplaying, hbusy, hactive, hpvalid⟩ := statusFlags_bits s.block
  rw [← fifoEmptyFlag_iff, ← fifoFull_iff, ← playingFlag_iff, ← trkBusyFlag_iff, ← frameActiveFlag_iff]
  simp only [statusWord_getLsbD, Nat.reduceLT, hfault, hdrop, hempty, hfull, hplaying, hbusy, hactive, hpvalid,
    true_and]
  exact ⟨rfl, statusWord_fields s.block⟩

/-- Settles O19: D[4:0] is legal exactly from 1 to LOG2N_MAX. -/
theorem log2nStoresLegalValuesOnly : Obligations.Log2nStoresLegalValuesOnly := by
  intro d s
  have hfield : log2nField d = BitVec.ofNat 5 (d.toNat % 32) :=
    BitVec.eq_of_toNat_eq (by simp [log2nField])
  have hlegal : Params.log2nLegal s.block.params (log2nField d) = true ↔
      1 ≤ d.toNat % 32 ∧ d.toNat % 32 ≤ s.block.params.log2nMax := by
    rw [log2nLegal_iff, hfield, BitVec.toNat_ofNat, Nat.mod_mod]
  refine ⟨decode_host_of_find (by decide) d rfl, fun hlo hhi => ?_, fun hout => ?_⟩
  · rw [← hfield]
    exact congrArg (finishWrite s) (if_pos (hlegal.2 ⟨hlo, hhi⟩))
  · exact congrArg (finishWrite s) (if_neg (mt hlegal.1 (by omega)))

/-- Settles O22: both resets are defined by the table of R43. -/
theorem bothResetsSetEveryField : Obligations.BothResetsSetEveryField := fun _ _ => ⟨rfl, rfl⟩

/-- Settles O23: STATUS of both reset blocks is that of `Block.reset`. -/
theorem statusAfterAResetIsFour : Obligations.StatusAfterAResetIsFour := by
  intro d s t i hp hi h
  obtain ⟨hblock, -⟩ := exec_of_resets (hi.imp_right fun hd => ⟨d, hd⟩) h
  have hstatus : t.block.statusWord = 4 := by
    obtain heq | heq := hblock
    · rw [heq]; exact statusWord_reset hp
    · rw [heq, statusWord_softReset]; exact statusWord_reset hp
  exact congrArg (finishRead t) hstatus

/-- Settles O40: the message is the one offered, so its row takes it as SinkAccept does. -/
theorem messagesCrossTheMidiPort : Obligations.MessagesCrossTheMidiPort := by
  intro n s rest hf
  constructor
  · intro hq
    have hcross := exec_of_accepting (.inr (.inl ⟨n, rfl, rfl⟩)) hf hq
    exact ⟨hcross, (exec_of_accepting (.inl rfl) hf hq).trans hcross.symm⟩
  · intro hq
    have hcross := exec_of_accepting (.inr (.inr ⟨n, rfl, rfl⟩)) hf hq
    exact ⟨hcross, (exec_of_accepting (.inl rfl) hf hq).trans hcross.symm⟩

/-- Settles O52, by `reset_inv`. -/
theorem resetStatesMeetTheInvariants : Obligations.ResetStatesMeetTheInvariants :=
  ⟨fun _ => reset_inv, reset_inv (by decide), rfl⟩

end Sys2Proof.Machine
end

section
/-! The host transactions by the rows they decode to (spec/20_memory.md R62, R65, R66): the BUSERR rows, the register
reads and the reserved reads. -/

namespace Sys2Proof.Machine

/-! ### Searching the opcode table -/

/-- A header other than the CTRL write's, which no row of `pre` and some row of `rows` matches, decodes by a row of
`rows` (R82). -/
theorem decode_of_rows {h : BitVec 11} (hne : h ≠ 0x500) (d : Word) {pre rows post : List HbRow}
    (htable : hbRows = pre ++ rows ++ post) (hpre : ∀ r ∈ pre, (h &&& r.mask == r.pattern) = false)
    (hrows : ∃ r ∈ rows, (h &&& r.mask == r.pattern) = true) :
    ∃ r ∈ rows, decode (.host ⟨h, d⟩) = .ok (r.build h d) := by
  obtain ⟨r, hr⟩ := Option.isSome_iff_exists.1 (List.find?_isSome.2 hrows)
  refine ⟨r, List.mem_of_find?_eq_some hr, decode_host_of_find hne d ?_⟩
  have hnone : pre.find? (fun r => h &&& r.mask == r.pattern) = none :=
    List.find?_eq_none.2 fun r hmem => by simp only [hpre r hmem, Bool.false_eq_true, not_false_eq_true]
  rw [htable, List.find?_append, List.find?_append, hnone, hr]
  rfl

/-! ### Bus errors -/

/-- The header {SZ, W, A} meets a mask field by field (R81). -/
theorem header_and_eq {sz ms ps : BitVec 2} {w mw pw : BitVec 1} {a ma pa : BitVec 8} (hsz : sz &&& ms = ps)
    (hw : w &&& mw = pw) (ha : a &&& ma = pa) : (sz ++ w ++ a) &&& (ms ++ mw ++ ma) = ps ++ pw ++ pa := by
  rw [BitVec.and_append, BitVec.and_append, hsz, hw, ha]

/-- Every transaction that is not an aligned 32-bit access matches a BUSERR row (R62). -/
theorem busErrRows_hit {sz : BitVec 2} {a : BitVec 8} (h : sz ≠ 0b10 ∨ a.extractLsb' 0 2 ≠ 0) (w : BitVec 1) :
    ∃ r ∈ busErrRows, ((sz ++ w ++ a) &&& r.mask == r.pattern) = true := by
  have hw : w &&& 0 = 0 := BitVec.and_zero
  simp only [busErrRows, List.exists_mem_cons_iff, beq_iff_eq]
  obtain hsize | halign := h
  · obtain hnarrow | hrsvd : sz &&& 0b10 = 0 ∨ sz &&& 0b11 = 0b11 := by decide +revert
    · exact .inl (header_and_eq hnarrow hw BitVec.and_zero)
    · exact .inr (.inl (header_and_eq hrsvd hw BitVec.and_zero))
  · obtain hbit0 | hbit1 : a &&& 1 = 1 ∨ a &&& 2 = 2 := by decide +revert
    · exact .inr (.inr (.inl (header_and_eq BitVec.and_zero hw hbit0)))
    · exact .inr (.inr (.inr (.inl (header_and_eq BitVec.and_zero hw hbit1))))

/-- Each BUSERR row answers BUSERR to the access of its header (R102). -/
theorem exec_busErrRows (h : BitVec 11) (d : Word) (s : State) :
    ∀ r ∈ busErrRows, exec (r.build h d) s = finishBusErr s (accessOf h d) := by
  simp only [busErrRows, List.forall_mem_cons]
  exact ⟨rfl, rfl, rfl, rfl, nofun⟩

/-- The direction of a header {SZ, W, A} is its W (R81). -/
theorem accessOf_header (sz : BitVec 2) (w : Bool) (a : BitVec 8) (d : Word) :
    accessOf (sz ++ BitVec.ofBool w ++ a) d = if w then .write d else .read := by
  have hbit : (sz ++ BitVec.ofBool w ++ a).getLsbD 8 = w := by
    rw [BitVec.getLsbD_append, BitVec.getLsbD_append]
    simp
  rw [accessOf, hbit]

/-! ### The address map -/

@[simp] theorem regAt_regOffset (r : Reg) : regAt (regOffset r) = some r := by cases r <;> rfl

/-- From 0x3C on every address is reserved (R66). -/
theorem regAt_eq_none {a : BitVec 8} (h : 0x3C ≤ a.toNat) : regAt a = none := by
  unfold regAt
  split <;> simp_all

/-- Below 0x3C every aligned address is a register's (R66). -/
theorem exists_regOffset_eq {a : BitVec 8} (halign : a.extractLsb' 0 2 = 0) (h : a.toNat < 0x3C) :
    ∃ r, a = regOffset r := by
  have hmap : (regAt a).any (a == regOffset ·) = true := by decide +revert
  obtain ⟨r, -, hr⟩ := (Option.any_eq_true _ _).1 hmap
  exact ⟨r, beq_iff_eq.1 hr⟩

theorem memRead_regOffset (b : Block) (r : Reg) : b.memRead (regOffset r) = b.readReg r := by
  simp only [Block.memRead, regAt_regOffset]

theorem memRead_reserved (b : Block) {a : BitVec 8} (h : 0x3C ≤ a.toNat) : b.memRead a = reservedWord := by
  simp only [Block.memRead, regAt_eq_none h]

/-! ### Register reads -/

/-- The operation that reads a register (R100). -/
def readOp : Reg → Instr
  | .ctrl => .rdCtrl
  | .status => .rdStatus
  | .threshold => .rdThreshold
  | .sampleRate => .rdSampleRate
  | .log2n => .rdLog2n
  | .binIndex => .rdBinIndex
  | .pitchFreq => .rdPitchFreq
  | .pitchAmp => .rdPitchAmp
  | .pitchBin => .rdPitchBin
  | .injFreq => .rdInjFreq
  | .injAmp => .rdInjAmp
  | .trkState => .rdTrkState
  | .trkAmp => .rdTrkAmp
  | .faultMsg => .rdFaultMsg
  | .caps => .rdCaps

theorem decode_readOp (r : Reg) (d : Word) : decode (.host ⟨0b100#3 ++ regOffset r, d⟩) = .ok (readOp r) := by
  cases r <;> exact decode_host_of_find (by decide) d rfl

theorem exec_readOp (r : Reg) (s : State) : exec (readOp r) s = finishRead s (s.block.readReg r) := by
  cases r <;> rfl

/-! ### Reserved reads -/

/-- The rows of the reads at reserved addresses (R36). -/
def reservedReadRows : List HbRow := reservedRows.take 3

/-- Each of them answers 0 with OKAY (R136). -/
theorem exec_reservedReadRows (h : BitVec 11) (d : Word) (s : State) :
    ∀ r ∈ reservedReadRows, exec (r.build h d) s = finishRead s reservedWord := by
  simp only [reservedReadRows, reservedRows, List.take_succ_cons, List.take_zero, List.forall_mem_cons]
  exact ⟨rfl, rfl, rfl, nofun⟩

/-- An aligned read from 0x3C on matches a reserved read's row. -/
theorem reservedReadRows_hit {a : BitVec 8} (halign : a.extractLsb' 0 2 = 0) (h : 0x3C ≤ a.toNat) :
    ∃ r ∈ reservedReadRows, ((0b100#3 ++ a) &&& r.mask == r.pattern) = true := by
  decide +revert

/-- An aligned read from 0x3C on matches no row before the reserved ones. -/
theorem reserved_read_misses {a : BitVec 8} (halign : a.extractLsb' 0 2 = 0) (h : 0x3C ≤ a.toNat) :
    ∀ r ∈ busErrRows ++ controlRows ++ configRows ++ pitchRows ++ trackerRows,
      ((0b100#3 ++ a) &&& r.mask == r.pattern) = false := by
  decide +revert

end Sys2Proof.Machine
end

section
/-! The obligations of spec/20_memory.md. -/

namespace Sys2Proof.Machine

/-- Settles O6: such a transaction matches a BUSERR row, and each of those answers BUSERR alone. -/
theorem illegalTransactionsAnswerBusErr : Obligations.IllegalTransactionsAnswerBusErr := by
  intro sz w a d s h
  have hhit := busErrRows_hit h (BitVec.ofBool w)
  have hne : sz ++ BitVec.ofBool w ++ a ≠ 0x500 := by
    intro heq
    rw [heq] at hhit
    exact absurd hhit (by decide)
  obtain ⟨r, hr, hdec⟩ := decode_of_rows hne d (pre := []) (rows := busErrRows)
    (post := hbRows.drop 4) rfl nofun hhit
  refine ⟨_, hdec, ?_⟩
  rw [exec_busErrRows _ d s r hr, accessOf_header, finishBusErr_eq]
  cases w <;> rfl

/-- Settles O8: an aligned address is a register's or reserved, and both kinds of read answer the word there. -/
theorem alignedReadsShowTheAddressSpace : Obligations.AlignedReadsShowTheAddressSpace := by
  intro a d s halign
  obtain hreg | hrsvd : a.toNat < 0x3C ∨ 0x3C ≤ a.toNat := by omega
  · obtain ⟨r, rfl⟩ := exists_regOffset_eq halign hreg
    refine ⟨readOp r, decode_readOp r d, ?_⟩
    rw [exec_readOp, finishRead_eq, memRead_regOffset]
  · have hne : 0b100#3 ++ a ≠ 0x500 := by decide +revert
    obtain ⟨r, hr, hdec⟩ := decode_of_rows hne d (post := reservedRows.drop 3) rfl
      (reserved_read_misses halign hrsvd) (reservedReadRows_hit halign hrsvd)
    refine ⟨_, hdec, ?_⟩
    rw [exec_reservedReadRows _ d s r hr, finishRead_eq, memRead_reserved _ hrsvd]

end Sys2Proof.Machine
end

section
/-! Encoding and decoding as inverse to each other (spec/30_encoding.md R81 to R89): the fields of a header, the
first row a header matches, and the operations that the headers and the MIDI words name. -/

namespace Sys2Proof

open Sys2Proof.Machine (accessOf_header)

/-! ### The operand checks -/

theorem wellFormed_buserrAlign1 (acc : Access) (a : BitVec 8) :
    (Instr.buserrAlign1 acc a).wellFormed = true ↔ a.getLsbD 1 = true ∧ a.getLsbD 0 = false := by
  rw [Instr.wellFormed, Bool.and_eq_true, Bool.not_eq_true']

theorem wellFormed_ctrlInject (d : Word) :
    (Instr.ctrlInject d).wellFormed = true ↔ d.getLsbD 1 = true ∧ d.getLsbD 0 = false := by
  rw [Instr.wellFormed, Bool.and_eq_true, Bool.not_eq_true']

theorem wellFormed_ctrlNop (d : Word) :
    (Instr.ctrlNop d).wellFormed = true ↔ d.getLsbD 1 = false ∧ d.getLsbD 0 = false := by
  rw [Instr.wellFormed, Bool.and_eq_true, Bool.not_eq_true', Bool.not_eq_true']

/-! ### The fields of a header -/

/-- W of a transaction (R81). -/
def Access.isWrite : Access → Bool
  | .read => false
  | .write _ => true

/-- The data lines the model writes beside a header: 0 for a read (log 13). -/
def Access.lines : Access → Word
  | .read => 0
  | .write d => d

/-- The word of a transaction as the header {SZ, W, A} and its data lines (R81). -/
theorem hostWord_eq (sz : BitVec 2) (acc : Access) (a : BitVec 8) :
    hostWord sz acc a = .host ⟨sz ++ BitVec.ofBool acc.isWrite ++ a, acc.lines⟩ := by
  cases acc <;> rfl

theorem accessOf_lines (sz : BitVec 2) (acc : Access) (a : BitVec 8) :
    accessOf (sz ++ BitVec.ofBool acc.isWrite ++ a) acc.lines = acc := by
  rw [accessOf_header]
  cases acc <;> rfl

@[simp] theorem addressOf_header (sz : BitVec 2) (w : BitVec 1) (a : BitVec 8) : addressOf (sz ++ w ++ a) = a :=
  BitVec.extractLsb'_append_eq_right

/-- A header is put together from its SZ, W and A (R81). -/
theorem header_eq_append (h : BitVec 11) :
    h.extractLsb' 9 2 ++ BitVec.ofBool (h.getLsbD 8) ++ addressOf h = h := by
  decide +revert

/-- The word of the transaction a header names carries that header, and the data of a write. -/
theorem hostWord_fields (h : BitVec 11) (d : Word) :
    hostWord (h.extractLsb' 9 2) (accessOf h d) (addressOf h) = .host ⟨h, if h.getLsbD 8 then d else 0⟩ := by
  have hw : (accessOf h d).isWrite = h.getLsbD 8 ∧ (accessOf h d).lines = if h.getLsbD 8 then d else 0 := by
    unfold accessOf
    cases h.getLsbD 8 <;> exact ⟨rfl, rfl⟩
  obtain ⟨hisWrite, hlines⟩ := hw
  rw [hostWord_eq, hisWrite, hlines, header_eq_append]

/-! ### The first row a header matches -/

/-- The place in the table of the first row that matches a header; the data plays no part (R82). -/
def firstRow (h : BitVec 11) : Nat := hbRows.findIdx fun r => h &&& r.mask == r.pattern

/-- A header that is no CTRL write (row 5) names the operation of its first row. -/
theorem decode_of_firstRow {h : BitVec 11} {k : Nat} {r : HbRow} (hk : firstRow h = k) (hctrl : k ≠ 5)
    (hr : hbRows[k]? = some r) (d : Word) : decode (.host ⟨h, d⟩) = .ok (r.build h d) := by
  have hne : h ≠ 0x500 := by
    rintro rfl
    exact hctrl (hk.symm.trans (by decide))
  refine decode_host_of_find hne d ?_
  rw [List.find?_eq_getElem?_findIdx, show hbRows.findIdx _ = k from hk, hr]
  rfl

theorem decode_hostWord {sz : BitVec 2} {acc : Access} {a : BitVec 8} {k : Nat} {r : HbRow}
    (hk : firstRow (sz ++ BitVec.ofBool acc.isWrite ++ a) = k) (hctrl : k ≠ 5) (hr : hbRows[k]? = some r) :
    decode (hostWord sz acc a) = .ok (r.build (sz ++ BitVec.ofBool acc.isWrite ++ a) acc.lines) := by
  rw [hostWord_eq, decode_of_firstRow hk hctrl hr]

/-! ### Bus errors -/

/-- A header with SZ[1] = 0 matches the first row, which reads SZ[0] back. -/
theorem narrow_row (half : Bool) (w : BitVec 1) (a : BitVec 8) :
    firstRow ((if half then 0b01 else 0b00 : BitVec 2) ++ w ++ a) = 0 ∧
      ((if half then 0b01 else 0b00 : BitVec 2) ++ w ++ a).getLsbD 9 = half := by
  decide +revert

theorem firstRow_rsvdSize (w : BitVec 1) (a : BitVec 8) : firstRow ((0b11 : BitVec 2) ++ w ++ a) = 1 := by
  decide +revert

theorem firstRow_odd (w : BitVec 1) {a : BitVec 8} (h : a.getLsbD 0 = true) :
    firstRow ((0b10 : BitVec 2) ++ w ++ a) = 2 := by
  decide +revert

theorem firstRow_halfword (w : BitVec 1) {a : BitVec 8} (h1 : a.getLsbD 1 = true) (h0 : a.getLsbD 0 = false) :
    firstRow ((0b10 : BitVec 2) ++ w ++ a) = 3 := by
  decide +revert

theorem decode_buserrSzNarrow (half : Bool) (acc : Access) (a : BitVec 8) :
    decode (encode (.buserrSzNarrow half acc a)) = .ok (.buserrSzNarrow half acc a) := by
  obtain ⟨hrow, hsize⟩ := narrow_row half (BitVec.ofBool acc.isWrite) a
  refine (decode_hostWord hrow (by decide) rfl).trans ?_
  simp only [hsize, accessOf_lines, addressOf_header]

theorem decode_buserrSzRsvd (acc : Access) (a : BitVec 8) :
    decode (encode (.buserrSzRsvd acc a)) = .ok (.buserrSzRsvd acc a) := by
  refine (decode_hostWord (firstRow_rsvdSize _ a) (by decide) rfl).trans ?_
  simp only [accessOf_lines, addressOf_header]

theorem decode_buserrAlign0 (acc : Access) {a : BitVec 8} (h : a.getLsbD 0 = true) :
    decode (encode (.buserrAlign0 acc a)) = .ok (.buserrAlign0 acc a) := by
  refine (decode_hostWord (firstRow_odd _ h) (by decide) rfl).trans ?_
  simp only [accessOf_lines, addressOf_header]

theorem decode_buserrAlign1 (acc : Access) {a : BitVec 8} (h1 : a.getLsbD 1 = true) (h0 : a.getLsbD 0 = false) :
    decode (encode (.buserrAlign1 acc a)) = .ok (.buserrAlign1 acc a) := by
  refine (decode_hostWord (firstRow_halfword _ h1 h0) (by decide) rfl).trans ?_
  simp only [accessOf_lines, addressOf_header]

/-! ### Reserved addresses -/

/-- A header of 0x40 to 0x7F matches the reserved row of its direction first, and the word index is read back from
it (R36). -/
theorem reserved40_row (w : Bool) (i : BitVec 4) :
    firstRow ((0b10 : BitVec 2) ++ BitVec.ofBool w ++ (0b01#2 ++ i ++ 0b00#2)) = (if w then 40 else 37) ∧
      ((0b10 : BitVec 2) ++ BitVec.ofBool w ++ (0b01#2 ++ i ++ 0b00#2)).extractLsb' 2 4 = i := by
  decide +revert

/-- The same for 0x80 to 0xFF. -/
theorem reserved80_row (w : Bool) (i : BitVec 5) :
    firstRow ((0b10 : BitVec 2) ++ BitVec.ofBool w ++ (0b1#1 ++ i ++ 0b00#2)) = (if w then 41 else 38) ∧
      ((0b10 : BitVec 2) ++ BitVec.ofBool w ++ (0b1#1 ++ i ++ 0b00#2)).extractLsb' 2 5 = i := by
  decide +revert

theorem decode_rdRsvd40To7F (i : BitVec 4) : decode (encode (.rdRsvd40To7F i)) = .ok (.rdRsvd40To7F i) := by
  obtain ⟨hrow, hindex⟩ := reserved40_row false i
  exact (decode_hostWord (acc := .read) hrow (by decide) rfl).trans
    (congrArg (fun j => Except.ok (Instr.rdRsvd40To7F j)) hindex)

theorem decode_wrRsvd40To7F (i : BitVec 4) (d : Word) :
    decode (encode (.wrRsvd40To7F i d)) = .ok (.wrRsvd40To7F i d) := by
  obtain ⟨hrow, hindex⟩ := reserved40_row true i
  exact (decode_hostWord (acc := .write d) hrow (by decide) rfl).trans
    (congrArg (fun j => Except.ok (Instr.wrRsvd40To7F j d)) hindex)

theorem decode_rdRsvd80ToFF (i : BitVec 5) : decode (encode (.rdRsvd80ToFF i)) = .ok (.rdRsvd80ToFF i) := by
  obtain ⟨hrow, hindex⟩ := reserved80_row false i
  exact (decode_hostWord (acc := .read) hrow (by decide) rfl).trans
    (congrArg (fun j => Except.ok (Instr.rdRsvd80ToFF j)) hindex)

theorem decode_wrRsvd80ToFF (i : BitVec 5) (d : Word) :
    decode (encode (.wrRsvd80ToFF i d)) = .ok (.wrRsvd80ToFF i d) := by
  obtain ⟨hrow, hindex⟩ := reserved80_row true i
  exact (decode_hostWord (acc := .write d) hrow (by decide) rfl).trans
    (congrArg (fun j => Except.ok (Instr.wrRsvd80ToFF j d)) hindex)

/-! ### CTRL writes -/

theorem decode_ctrlSrst {d : Word} (h : d.getLsbD 0 = true) :
    decode (encode (.ctrlSrst d)) = .ok (.ctrlSrst d) := by
  refine (decode_ctrl_write d).trans ?_
  rw [if_pos h]

theorem decode_ctrlInject {d : Word} (h1 : d.getLsbD 1 = true) (h0 : d.getLsbD 0 = false) :
    decode (encode (.ctrlInject d)) = .ok (.ctrlInject d) := by
  refine (decode_ctrl_write d).trans ?_
  rw [if_neg (ne_true_of_eq_false h0), if_pos h1]

theorem decode_ctrlNop {d : Word} (h1 : d.getLsbD 1 = false) (h0 : d.getLsbD 0 = false) :
    decode (encode (.ctrlNop d)) = .ok (.ctrlNop d) := by
  refine (decode_ctrl_write d).trans ?_
  rw [if_neg (ne_true_of_eq_false h0), if_neg (ne_true_of_eq_false h1)]

/-! ### MIDI words -/

/-- Equal concatenations of equal widths have equal parts. -/
theorem append_fields {m n : Nat} {x x' : BitVec m} {y y' : BitVec n} (h : x ++ y = x' ++ y') : x = x' ∧ y = y' := by
  have hhigh := congrArg (BitVec.extractLsb' n m) h
  have hlow := congrArg (BitVec.extractLsb' 0 n) h
  rw [BitVec.extractLsb'_append_eq_left, BitVec.extractLsb'_append_eq_left] at hhigh
  rw [BitVec.extractLsb'_append_eq_right, BitVec.extractLsb'_append_eq_right] at hlow
  exact ⟨hhigh, hlow⟩

/-- A 24-bit word is put together from its status byte, bit 15, note field and velocity byte (R86). -/
theorem midi_eq_append (wd : BitVec 24) :
    wd.extractLsb' 16 8 ++ (wd.extractLsb' 15 1 ++ noteField wd) ++ wd.extractLsb' 0 8 = wd := by
  have hnote : wd.extractLsb' 15 1 ++ noteField wd = wd.extractLsb' 8 8 :=
    BitVec.extractLsb'_append_extractLsb'_eq_extractLsb' rfl
  have hbytes : wd.extractLsb' 16 8 ++ wd.extractLsb' 8 8 = wd.extractLsb' 8 16 :=
    BitVec.extractLsb'_append_extractLsb'_eq_extractLsb' rfl
  rw [hnote, hbytes]
  exact BitVec.extractLsb'_append_extractLsb' (w := 16) (len := 8)

/-- The mask of the two MIDI3 rows clears the note field alone (R86). -/
theorem midi_mask (status velocity : Byte) (top : BitVec 1) (n : BitVec 7) :
    (status ++ (top ++ n) ++ velocity) &&& 0xFF80FF = status ++ (top ++ 0#7) ++ velocity := by
  have hmask : (0xFF80FF : BitVec 24) = BitVec.allOnes 8 ++ (BitVec.allOnes 1 ++ 0#7) ++ BitVec.allOnes 8 := by
    decide
  rw [hmask, BitVec.and_append, BitVec.and_append, BitVec.and_append, BitVec.and_allOnes, BitVec.and_allOnes,
    BitVec.and_allOnes, BitVec.and_zero]

/-- A row's test leaves the note free and fixes every other bit (R86). -/
theorem midi_masked_eq_iff (status : Byte) (wd : BitVec 24) :
    wd &&& 0xFF80FF = midiWord status 0 ↔ wd = midiWord status (noteField wd) := by
  constructor
  · intro h
    have hfields := (midi_mask (wd.extractLsb' 16 8) (wd.extractLsb' 0 8) (wd.extractLsb' 15 1)
      (noteField wd)).symm.trans (midi_eq_append wd ▸ h)
    obtain ⟨hbytes, hvelocity⟩ := append_fields hfields
    obtain ⟨hstatus, hnote⟩ := append_fields hbytes
    obtain ⟨htop, -⟩ := append_fields hnote
    calc wd = _ := (midi_eq_append wd).symm
      _ = midiWord status (noteField wd) := by rw [hstatus, htop, hvelocity, midiWord]
  · intro h
    rw [h]
    exact midi_mask status 0x64 0 (noteField wd)

@[simp] theorem noteField_midiWord (status : Byte) (n : BitVec 7) : noteField (midiWord status n) = n := by
  have hfields := midi_eq_append (midiWord status n)
  obtain ⟨hbytes, -⟩ := append_fields hfields
  obtain ⟨-, hlow⟩ := append_fields hbytes
  obtain ⟨-, hnote⟩ := append_fields hlow
  exact hnote

/-- The two MIDI3 rows name a message from its wire word (R86, R89). -/
theorem decodeMidi_eq (wd : BitVec 24) :
    decodeMidi wd =
      if wd = midiWord 0x90 (noteField wd) then some (.noteOn (noteField wd))
      else if wd = midiWord 0x80 (noteField wd) then some (.noteOff (noteField wd))
      else none := by
  simp only [← midi_masked_eq_iff, decodeMidi, beq_iff_eq]
  rfl

theorem decode_noteOn (n : BitVec 7) : decode (encode (.noteOn n)) = .ok (.noteOn n) := by
  simp only [encode, decode, decodeMidi_eq, noteField_midiWord, if_true]

theorem decode_noteOff (n : BitVec 7) : decode (encode (.noteOff n)) = .ok (.noteOff n) := by
  have hne : midiWord 0x80 n ≠ midiWord 0x90 n := by
    intro h
    obtain ⟨hbytes, -⟩ := append_fields h
    obtain ⟨hstatus, -⟩ := append_fields hbytes
    exact absurd hstatus (by decide)
  simp only [encode, decode, decodeMidi_eq, noteField_midiWord, if_neg hne, if_true]

/-- A MIDI3 word names a message exactly when it is that message's wire word. -/
theorem decode_midi_iff (wd : BitVec 24) (i : Instr) : decode (.midi wd) = .ok i ↔
    (∃ n, i = .noteOn n ∧ wd = midiWord 0x90 n) ∨ ∃ n, i = .noteOff n ∧ wd = midiWord 0x80 n := by
  constructor
  · intro h
    simp only [decode, decodeMidi_eq] at h
    split_ifs at h with hon hoff
    · cases h
      exact .inl ⟨_, rfl, hon⟩
    · cases h
      exact .inr ⟨_, rfl, hoff⟩
  · rintro (⟨n, rfl, rfl⟩ | ⟨n, rfl, rfl⟩)
    · exact decode_noteOn n
    · exact decode_noteOff n

theorem toNat_append_eq_add {m n : Nat} (x : BitVec m) (y : BitVec n) :
    (x ++ y).toNat = x.toNat * 2 ^ n + y.toNat := by
  rw [BitVec.toNat_append, ← Nat.shiftLeft_add_eq_or_of_lt y.isLt, Nat.shiftLeft_eq]

theorem midiWord_toNat (status : Byte) (n : BitVec 7) :
    (midiWord status n).toNat = status.toNat * 2 ^ 16 + 256 * n.toNat + 0x64 := by
  have hvelocity : (0x64#8).toNat = 0x64 := rfl
  have htop : (0#1).toNat = 0 := rfl
  rw [midiWord, toNat_append_eq_add, toNat_append_eq_add, toNat_append_eq_add, hvelocity, htop]
  omega

/-! ### The operation of every transaction -/

/-- The operation that writes a register; a CTRL write is split by its data (R101, R104). -/
def writeOp (d : Word) : Reg → Instr
  | .ctrl => if d.getLsbD 0 then .ctrlSrst d else if d.getLsbD 1 then .ctrlInject d else .ctrlNop d
  | .status => .wrStatus d
  | .threshold => .wrThreshold d
  | .sampleRate => .wrSampleRate d
  | .log2n => .wrLog2n d
  | .binIndex => .wrBinIndex d
  | .pitchFreq => .wrPitchFreq d
  | .pitchAmp => .wrPitchAmp d
  | .pitchBin => .wrPitchBin d
  | .injFreq => .wrInjFreq d
  | .injAmp => .wrInjAmp d
  | .trkState => .wrTrkState d
  | .trkAmp => .wrTrkAmp d
  | .faultMsg => .wrFaultMsg d
  | .caps => .wrCaps d

open Sys2Proof.Machine (regOffset readOp exists_regOffset_eq)

theorem encode_readOp (r : Reg) :
    (readOp r).wellFormed = true ∧ encode (readOp r) = readWord (regOffset r) := by
  cases r <;> exact ⟨rfl, rfl⟩

theorem encode_writeOp (r : Reg) (d : Word) :
    (writeOp d r).wellFormed = true ∧ encode (writeOp d r) = writeWord (regOffset r) d := by
  cases r with
  | ctrl =>
    simp only [writeOp]
    split_ifs with h0 h1
    · exact ⟨h0, rfl⟩
    · exact ⟨(wellFormed_ctrlInject d).2 ⟨h1, eq_false_of_ne_true h0⟩, rfl⟩
    · exact ⟨(wellFormed_ctrlNop d).2 ⟨eq_false_of_ne_true h1, eq_false_of_ne_true h0⟩, rfl⟩
  | _ => exact ⟨rfl, rfl⟩

/-- From 0x3C on an aligned address is one of the three reserved kinds (R36). -/
theorem reserved_cases {a : BitVec 8} (halign : a.extractLsb' 0 2 = 0) (h : 0x3C ≤ a.toNat) :
    a = 0x3C ∨ a = 0b01#2 ++ a.extractLsb' 2 4 ++ 0b00#2 ∨ a = 0b1#1 ++ a.extractLsb' 2 5 ++ 0b00#2 := by
  decide +revert

/-- Every aligned 32-bit access is the encoding of a well-formed operation. -/
theorem exists_encode_aligned (acc : Access) {a : BitVec 8} (halign : a.extractLsb' 0 2 = 0) :
    ∃ i, i.wellFormed = true ∧ encode i = hostWord 0b10 acc a := by
  obtain hreg | hrsvd : a.toNat < 0x3C ∨ 0x3C ≤ a.toNat := by omega
  · obtain ⟨r, rfl⟩ := exists_regOffset_eq halign hreg
    cases acc with
    | read => exact ⟨_, encode_readOp r⟩
    | write d => exact ⟨_, encode_writeOp r d⟩
  · cases acc with
    | read =>
      obtain rfl | h40 | h80 := reserved_cases halign hrsvd
      · exact ⟨.rdRsvd3C, rfl, rfl⟩
      · exact ⟨.rdRsvd40To7F (a.extractLsb' 2 4), rfl, congrArg readWord h40.symm⟩
      · exact ⟨.rdRsvd80ToFF (a.extractLsb' 2 5), rfl, congrArg readWord h80.symm⟩
    | write d =>
      obtain rfl | h40 | h80 := reserved_cases halign hrsvd
      · exact ⟨.wrRsvd3C d, rfl, rfl⟩
      · exact ⟨.wrRsvd40To7F (a.extractLsb' 2 4) d, rfl, congrArg (writeWord · d) h40.symm⟩
      · exact ⟨.wrRsvd80ToFF (a.extractLsb' 2 5) d, rfl, congrArg (writeWord · d) h80.symm⟩

/-- Every transaction is the encoding of a well-formed operation (R82). -/
theorem exists_encode_hostWord (sz : BitVec 2) (acc : Access) (a : BitVec 8) :
    ∃ i, i.wellFormed = true ∧ encode i = hostWord sz acc a := by
  obtain rfl | rfl | rfl | rfl : sz = 0b00 ∨ sz = 0b01 ∨ sz = 0b11 ∨ sz = 0b10 := by decide +revert
  · exact ⟨.buserrSzNarrow false acc a, rfl, rfl⟩
  · exact ⟨.buserrSzNarrow true acc a, rfl, rfl⟩
  · exact ⟨.buserrSzRsvd acc a, rfl, rfl⟩
  · cases h0 : a.getLsbD 0 with
    | true => exact ⟨.buserrAlign0 acc a, h0, rfl⟩
    | false =>
      cases h1 : a.getLsbD 1 with
      | true => exact ⟨.buserrAlign1 acc a, (wellFormed_buserrAlign1 acc a).2 ⟨h1, h0⟩, rfl⟩
      | false =>
        have halign : a.extractLsb' 0 2 = 0 := by decide +revert
        exact exists_encode_aligned acc halign

/-! ### The data lines of a read -/

theorem accessOf_read {h : BitVec 11} (hread : h.getLsbD 8 = false) (d : Word) : accessOf h d = .read :=
  if_neg (ne_true_of_eq_false hread)

/-- A BUSERR row takes its data with the direction. -/
theorem busErrRows_build_read {h : BitVec 11} (hread : h.getLsbD 8 = false) (d d' : Word) :
    ∀ r ∈ busErrRows, r.build h d = r.build h d' := by
  simp [busErrRows, accessOf_read hread]

/-- After the BUSERR rows each row is a read's, which takes no data, or fixes W at 1. -/
theorem accessRows_read_or_write : ∀ r ∈ hbRows.drop 4,
    (∀ h d d', r.build h d = r.build h d') ∨ (r.mask.getLsbD 8 = true ∧ r.pattern.getLsbD 8 = true) := by
  simp [hbRows, busErrRows, controlRows, configRows, pitchRows, trackerRows, reservedRows, exactRow]

/-- A matching row takes no data from a read. -/
theorem build_read {h : BitVec 11} (hread : h.getLsbD 8 = false) {r : HbRow} (hr : r ∈ hbRows)
    (hhit : (h &&& r.mask == r.pattern) = true) (d d' : Word) : r.build h d = r.build h d' := by
  obtain hbus | haccess : r ∈ busErrRows ∨ r ∈ hbRows.drop 4 := List.mem_append.1 hr
  · exact busErrRows_build_read hread d d' r hbus
  obtain hsame | ⟨hmask, hpattern⟩ := accessRows_read_or_write r haccess
  · exact hsame h d d'
  · rw [← beq_iff_eq.1 hhit, BitVec.getLsbD_and, hread, Bool.false_and] at hpattern
    cases hpattern

/-- A read is decoded by its header alone (R61, log 13). -/
theorem decode_read {h : BitVec 11} (hread : h.getLsbD 8 = false) (d d' : Word) :
    decode (.host ⟨h, d⟩) = decode (.host ⟨h, d'⟩) := by
  have hne : h ≠ 0x500 := by
    rintro rfl
    cases hread
  simp only [decode, decodeHost_of_not_ctrl hne]
  cases hf : hbRows.find? fun r => h &&& r.mask == r.pattern with
  | none => rfl
  | some r =>
    obtain ⟨hhit, -⟩ := List.find?_eq_some_iff_append.1 hf
    simp only [Option.map_some, build_read hread (List.mem_of_find?_eq_some hf) hhit d d']

end Sys2Proof
end

section
/-! The obligations of spec/30_encoding.md on words: O1 to O4. -/

namespace Sys2Proof

/-- Settles O1. The rows that leave operands free have a lemma each; the others are rows of one header or no header
at all. -/
theorem decodeInvertsEncode : Obligations.DecodeInvertsEncode := by
  intro i hwf
  cases i with
  | buserrSzNarrow half acc a => exact decode_buserrSzNarrow half acc a
  | buserrSzRsvd acc a => exact decode_buserrSzRsvd acc a
  | buserrAlign0 acc a => exact decode_buserrAlign0 acc hwf
  | buserrAlign1 acc a =>
    obtain ⟨h1, h0⟩ := (wellFormed_buserrAlign1 acc a).1 hwf
    exact decode_buserrAlign1 acc h1 h0
  | ctrlSrst d => exact decode_ctrlSrst hwf
  | ctrlInject d =>
    obtain ⟨h1, h0⟩ := (wellFormed_ctrlInject d).1 hwf
    exact decode_ctrlInject h1 h0
  | ctrlNop d =>
    obtain ⟨h1, h0⟩ := (wellFormed_ctrlNop d).1 hwf
    exact decode_ctrlNop h1 h0
  | rdRsvd40To7F i => exact decode_rdRsvd40To7F i
  | rdRsvd80ToFF i => exact decode_rdRsvd80ToFF i
  | wrRsvd40To7F i d => exact decode_wrRsvd40To7F i d
  | wrRsvd80ToFF i d => exact decode_wrRsvd80ToFF i d
  | noteOn n => exact decode_noteOn n
  | noteOff n => exact decode_noteOff n
  | sinBeat | trackStep | sinkAccept | sinkError | reset => rfl
  | _ => exact decode_host_of_find (by decide) _ rfl

/-- Settles O2: the header's transaction is the encoding of a well-formed operation, which O1 gives back, and the
data of a read plays no part. -/
theorem headerDecodingIsTotalAndExact : Obligations.HeaderDecodingIsTotalAndExact := by
  intro h d
  obtain ⟨i, hwf, henc⟩ := exists_encode_hostWord (h.extractLsb' 9 2) (accessOf h d) (addressOf h)
  rw [hostWord_fields] at henc
  refine ⟨i, ?_, hwf, henc⟩
  have hdec := decodeInvertsEncode i hwf
  rw [henc] at hdec
  cases hw : h.getLsbD 8 with
  | true => rwa [hw, if_pos rfl] at hdec
  | false => exact (decode_read hw d _).trans hdec

/-- Settles O3: the two messages' wire words as numbers. -/
theorem midiWordsAreTheTwoMessages : Obligations.MidiWordsAreTheTwoMessages := by
  intro wd i
  have hwire (status : Byte) (n : BitVec 7) :
      wd = midiWord status n ↔ wd.toNat = status.toNat * 2 ^ 16 + 0x64 + 256 * n.toNat := by
    rw [← BitVec.toNat_inj, midiWord_toNat, Nat.add_right_comm]
  simp only [decode_midi_iff, hwire]
  rfl

/-- Settles O4: each header's row is the first it matches; the CTRL writes are split by their data, and the last
word is neither message. -/
theorem specWordsDecodeToTheirRows : Obligations.SpecWordsDecodeToTheirRows :=
  ⟨decode_host_of_find (by decide) _ rfl, decode_host_of_find (by decide) _ rfl,
    decode_host_of_find (by decide) _ rfl, decode_host_of_find (by decide) _ rfl,
    decode_host_of_find (by decide) _ rfl, decode_ctrl_write 0x00000003, decode_ctrl_write 0xFFFFFFFE,
    decode_host_of_find (by decide) _ rfl, decode_host_of_find (by decide) _ rfl, decode_noteOn 69, rfl⟩

end Sys2Proof
end

section
/-! Scripts put before everything else (spec/30_encoding.md R91, R92): what waits at the ports plays no part in an
operation, so a script runs loaded as it is played. -/

namespace Sys2Proof.Machine

/-! ### An operation leaves what waits at the ports -/

theorem offer_withBlock (s : State) (b : Block) (p : PortWord) :
    (s.offer p).withBlock b = (s.withBlock b).offer p := by
  cases p <;> rfl

theorem offer_respond (s : State) (r : BusResult) (p : PortWord) :
    (s.offer p).respond r = (s.respond r).offer p := by
  cases p <;> rfl

theorem offer_deliver (s : State) (m : Midi) (p : PortWord) :
    (s.offer p).deliver m = (s.deliver m).offer p := by
  cases p <;> rfl

theorem exec_sinkError_of_enabled {s : State} {m : Midi} {rest : List Midi} (hf : s.block.fault = false)
    (hq : s.block.outq = m :: rest) :
    exec .sinkError s = .next (s.withBlock (s.block.raiseMidiSendError m)) := by
  rw [← sinkError_eq hq]
  exact if_pos ((sinkEnabled_iff _).2 ⟨hf, m, rest, hq⟩)

/-- An operation does the same before a word that waits (R8). -/
theorem exec_offer {i : Instr} {s t : State} (h : exec i s = .next t) (p : PortWord) :
    exec i (s.offer p) = .next (t.offer p) := by
  cases he : eventEnabled i s.block with
  | false =>
    cases (exec_of_not_enabled he).symm.trans h
    exact exec_of_not_enabled (by rwa [State.offer_block])
  | true =>
    have accept {m : Midi} {rest : List Midi} (hi : accepting i m) (hf : s.block.fault = false)
        (hq : s.block.outq = m :: rest) : exec i (s.offer p) = .next (t.offer p) := by
      cases (exec_of_accepting hi hf hq).symm.trans h
      rw [exec_of_accepting (s := s.offer p) hi (by rwa [State.offer_block]) (by rwa [State.offer_block]),
        offer_withBlock, offer_deliver, State.offer_block]
    cases i with
    | sinBeat m =>
      cases (exec_sinBeat_of_enabled m he).symm.trans h
      rw [exec_sinBeat_of_enabled m (by rwa [State.offer_block]), offer_withBlock, State.offer_block]
    | trackStep =>
      obtain ⟨hf, hq, q, rest, hp⟩ := (trackStepEnabled_iff _).1 he
      cases (exec_trackStep_of_enabled hf hq hp).symm.trans h
      rw [exec_trackStep_of_enabled (s := s.offer p) (by rwa [State.offer_block]) (by rwa [State.offer_block])
        (by rwa [State.offer_block]), offer_withBlock, State.offer_block]
    | sinkAccept =>
      obtain ⟨hf, m, rest, hq⟩ := (sinkEnabled_iff _).1 he
      exact accept (.inl rfl) hf hq
    | noteOn n =>
      obtain ⟨hf, rest, hq⟩ := (messageEnabled_iff _ _).1 he
      exact accept (.inr (.inl ⟨n, rfl, rfl⟩)) hf hq
    | noteOff n =>
      obtain ⟨hf, rest, hq⟩ := (messageEnabled_iff _ _).1 he
      exact accept (.inr (.inr ⟨n, rfl, rfl⟩)) hf hq
    | sinkError =>
      obtain ⟨hf, m, rest, hq⟩ := (sinkEnabled_iff _).1 he
      cases (exec_sinkError_of_enabled hf hq).symm.trans h
      rw [exec_sinkError_of_enabled (s := s.offer p) (by rwa [State.offer_block]) (by rwa [State.offer_block]),
        offer_withBlock, State.offer_block]
    | _ =>
      cases h
      cases p <;> rfl

/-! ### Loaded scripts -/

@[simp] theorem load_nil (s : State) : s.load [] = s := rfl

@[simp] theorem load_cons (s : State) (l : ScriptLine) (ls : List ScriptLine) :
    s.load (l :: ls) = (s.load ls).offer (scriptWord l) := rfl

@[simp] theorem load_block (s : State) (ls : List ScriptLine) : (s.load ls).block = s.block := by
  induction ls with
  | nil => rfl
  | cons l ls ih => rw [load_cons, State.offer_block, ih]

/-- An operation does the same before a script that waits. -/
theorem exec_load {i : Instr} {s t : State} (h : exec i s = .next t) (ls : List ScriptLine) :
    exec i (s.load ls) = .next (t.load ls) := by
  induction ls with
  | nil => exact h
  | cons l ls ih => exact exec_offer ih (scriptWord l)

/-- A script that names a run begins with an enabled event and goes on from where that leads. -/
theorem play_cons_eq_some {s t : State} {l : ScriptLine} {ls : List ScriptLine}
    (h : s.play (l :: ls) = some t) :
    ∃ i u, decode (scriptWord l) = .ok i ∧ eventEnabled i s.block = true ∧ exec i s = .next u ∧
      u.play ls = some t := by
  cases hd : decode (scriptWord l) with
  | error e => simp [State.play, hd] at h
  | ok i =>
    obtain ⟨u, hu, -⟩ := exec_does i s
    cases he : eventEnabled i s.block with
    | false => simp [State.play, hd, he] at h
    | true => exact ⟨i, u, rfl, he, hu, State.play_cons hd he hu ▸ h⟩

theorem run_succ_of_step {M : Host.Core} {s t : M.State} (h : M.step s = .next t) (k : Nat) :
    M.run (k + 1) s = M.run k t := by
  simp only [Host.Core.run, h]

/-- A script put before everything else runs line by line as it is played (R91). -/
theorem run_load_of_play {s t : State} {ls : List ScriptLine} (h : s.play ls = some t) :
    Host.Core.run core ls.length (s.load ls) = .next t := by
  induction ls generalizing s with
  | nil =>
    cases h
    rfl
  | cons l ls ih =>
    obtain ⟨i, u, hd, he, hx, hplay⟩ := play_cons_eq_some h
    have hstep : step (s.load (l :: ls)) = .next (u.load ls) := by
      rw [load_cons, step_of_fetch (fetch_offer _ _) hd, State.offer_block, load_block, if_pos he]
      exact exec_load hx ls
    rw [List.length_cons, run_succ_of_step (M := core) hstep, ih hplay]

/-! ### deliver -/

/-- A step taken with outq empty leaves the fault as it is and at most two messages waiting (R177 to R181). -/
theorem trackStep_outq {b : Block} (hq : b.outq = []) :
    b.trackStep.fault = b.fault ∧ b.trackStep.outq.length ≤ 2 := by
  cases hp : b.fifo with
  | nil => simp [Block.trackStep, hp, hq]
  | cons p rest =>
    obtain ⟨new, trk, heq, hlen⟩ := react_eq_append { b with fifo := rest } p
    rw [trackStep_eq hp, heq]
    exact ⟨rfl, by simpa [hq] using hlen⟩

theorem stepMessages_eq {b : Block} (hq : b.outq = []) : b.stepMessages = b.trackStep.outq.length := by
  rw [Block.stepMessages, hq, List.length_nil, Nat.sub_zero]

/-- Where the tracker may step, deliver takes the step and sends what it appended (R92). -/
theorem play_scriptDeliver {s : State} (he : s.block.trackStepEnabled = true) :
    s.play (scriptDeliver s.block) =
      some { block := { s.block.trackStep with outq := [] }
             world := { s.world with trace := s.world.trace ++ s.block.trackStep.outq } } := by
  obtain ⟨hf, hq, -⟩ := (trackStepEnabled_iff _).1 he
  obtain ⟨hfault, -⟩ := trackStep_outq hq
  have hstep : exec .trackStep s = .next (s.withBlock s.block.trackStep) := if_pos he
  rw [scriptDeliver, stepMessages_eq hq, State.play_cons (i := .trackStep) rfl he hstep]
  exact State.play_accepts (s.withBlock s.block.trackStep) (hfault.trans hf)

/-- An item that names a run stands for its lines. -/
theorem expand_singleton {s t : State} {i : ScriptItem} (h : s.play (i.expand s.block) = some t) :
    s.expand [i] = some (i.expand s.block) ∧ s.playItems [i] = some t := by
  have hexpand : s.expand [i] = some (i.expand s.block) := by simp [State.expand, h]
  exact ⟨hexpand, by rw [State.playItems, hexpand, Option.bind_some, h]⟩

/-- Settles O58: by induction on the script for the runs; deliver is the step and the acceptances of
`State.play_accepts`. -/
theorem scriptsRunAsPlayed : Obligations.ScriptsRunAsPlayed := by
  refine ⟨fun s t ls => run_load_of_play, fun s t is h => ?_, fun s hf hq hne => ?_⟩
  · obtain ⟨ls, hexpand, hplay⟩ := Option.bind_eq_some_iff.1 h
    exact ⟨ls, hexpand, run_load_of_play hplay⟩
  · obtain ⟨p, rest, hp⟩ := List.exists_cons_of_ne_nil hne
    obtain ⟨-, hlen⟩ := trackStep_outq hq
    obtain ⟨hexpand, hplay⟩ := expand_singleton (i := .deliver)
      (play_scriptDeliver ((trackStepEnabled_iff _).2 ⟨hf, hq, p, rest, hp⟩))
    refine ⟨hlen, ?_, hplay⟩
    rw [hexpand, ScriptItem.expand, scriptDeliver, stepMessages_eq hq]

end Sys2Proof.Machine
end

section
/-! The host registers (spec/40_host_registers.md): what a write to a register or to a reserved address does, and the
packed words of the reads as numbers. -/

namespace Sys2Proof.Machine

/-! ### Register writes -/

/-- What a write of `d` to a register leaves of the block (R101, R104 to R135), as `Block.readReg` is what a read
shows. -/
def Block.writeReg (b : Block) (d : Word) : Reg → Block
  | .ctrl => if d.getLsbD 0 then b.softReset else if d.getLsbD 1 then b.inject else b
  | .status => if d.getLsbD 1 then { b with injDrop := false } else b
  | .threshold => { b with cfgThr := d }
  | .sampleRate => { b with cfgRate := d }
  | .log2n => if Params.log2nLegal b.params (log2nField d) then { b with cfgLog2n := log2nField d } else b
  | .injFreq => { b with injFreq := d }
  | .injAmp => { b with injAmp := d }
  | .binIndex | .pitchFreq | .pitchAmp | .pitchBin | .trkState | .trkAmp | .faultMsg | .caps => b

theorem decode_writeOp (r : Reg) (d : Word) :
    decode (.host ⟨0b101#3 ++ regOffset r, d⟩) = .ok (writeOp d r) := by
  obtain ⟨hwf, henc⟩ := encode_writeOp r d
  have hdec := decodeInvertsEncode (writeOp d r) hwf
  rwa [henc] at hdec

/-- Every register write answers OKAY (R101). -/
theorem exec_writeOp (r : Reg) (d : Word) (s : State) :
    exec (writeOp d r) s = finishWrite s (s.block.writeReg d r) := by
  cases r with
  | ctrl =>
    simp only [writeOp, Block.writeReg]
    split_ifs <;> rfl
  | _ => rfl

/-! ### Injection -/

theorem inject_of_halted_or_full {b : Block} (h : b.fault = true ∨ b.fifo.length = b.params.fifoDepth) :
    b.inject = { b with injDrop := true } :=
  if_pos (Bool.or_eq_true_iff.2 (h.imp_right (fifoFull_iff b).2))

theorem inject_of_room {b : Block} (hf : b.fault = false) (hroom : b.fifo.length ≠ b.params.fifoDepth) :
    b.inject = b.push ⟨b.injFreq, b.injAmp⟩ := by
  have hfull : b.fifoFull = false := eq_false_of_ne_true (mt (fifoFull_iff b).1 hroom)
  simp only [Block.inject, hf, hfull, Bool.or_self, Bool.false_eq_true, if_false]

/-! ### Reserved writes -/

/-- Every reserved address is 0x3C or above (R36). -/
theorem le_of_reserved {a : BitVec 8} (h : a = 0x3C ∨ 0x40 ≤ a.toNat) : 0x3C ≤ a.toNat := by
  obtain rfl | h := h
  · exact le_rfl
  · omega

/-- An aligned write from 0x3C on is one of the three reserved rows, each of which only answers OKAY (R137). -/
theorem reserved_write {a : BitVec 8} (halign : a.extractLsb' 0 2 = 0) (h : 0x3C ≤ a.toNat) (d : Word) (s : State) :
    ∃ i, decode (.host ⟨0b101#3 ++ a, d⟩) = .ok i ∧ exec i s = finishWrite s s.block := by
  obtain rfl | h40 | h80 := reserved_cases halign h
  · exact ⟨_, decodeInvertsEncode (.wrRsvd3C d) rfl, rfl⟩
  · rw [h40]
    exact ⟨_, decode_wrRsvd40To7F _ d, rfl⟩
  · rw [h80]
    exact ⟨_, decode_wrRsvd80ToFF _ d, rfl⟩

/-! ### Packed words -/

/-- DEAD in bit 31 and BIN in bits 15:0 (R120). -/
theorem pitchBinWord_eq_ofNat (b : Block) :
    b.pitchBinWord = BitVec.ofNat 32 ((if b.lastDead then 2 ^ 31 else 0) + b.lastBin.toNat) := by
  have hbin := b.lastBin.isLt
  have hbit := Bool.toNat_lt b.lastDead
  have hdead : (if b.lastDead then 2 ^ 31 else 0) = b.lastDead.toNat * 2 ^ 31 := by
    cases b.lastDead <;> rfl
  apply BitVec.eq_of_toNat_eq
  rw [hdead, Block.pitchBinWord, toNat_append_eq_add, toNat_append_eq_add, BitVec.toNat_ofBool]
  simp only [BitVec.toNat_ofNat]
  omega

/-- NOTE in bits 14:8 and PLAYING in bit 0 (R128). -/
theorem stateWord_playing (n : BitVec 7) (a : Word) :
    (Trk.playing n a).stateWord = BitVec.ofNat 32 (n.toNat * 256 + 1) := by
  have hn := n.isLt
  apply BitVec.eq_of_toNat_eq
  rw [Trk.stateWord, toNat_append_eq_add, toNat_append_eq_add, toNat_append_eq_add]
  simp only [BitVec.toNat_ofNat]
  omega

/-- FIFO_DEPTH in bits 15:8 and LOG2N_MAX in bits 4:0, whose legal values fit there (R5, R134). -/
theorem capsWord_of_legal {p : Params} (hp : p.legal = true) :
    Params.capsWord p = BitVec.ofNat 32 (p.fifoDepth * 256 + p.log2nMax) := by
  obtain ⟨-, hmax, -, hdepth⟩ := (legal_iff p).1 hp
  apply BitVec.eq_of_toNat_eq
  rw [Params.capsWord, toNat_append_eq_add, toNat_append_eq_add, toNat_append_eq_add]
  simp only [BitVec.toNat_ofNat]
  omega

end Sys2Proof.Machine
end

section
/-! The obligations of spec/40_host_registers.md. -/

namespace Sys2Proof.Machine

/-- Settles O13: a reserved read shows the address space, which is 0 there. -/
theorem reservedReadsAnswerZero : Obligations.ReservedReadsAnswerZero := by
  intro s
  have hzero := finishRead_eq s reservedWord
  refine ⟨hzero, fun _ => hzero, fun _ => hzero, fun a d halign hrsvd => ?_⟩
  obtain ⟨i, hdec, hexec⟩ := alignedReadsShowTheAddressSpace a d s halign
  rw [memRead_reserved _ (le_of_reserved hrsvd)] at hexec
  exact ⟨i, hdec, hexec⟩

/-- Settles O14, by `reserved_write`. -/
theorem reservedWritesAreIgnored : Obligations.ReservedWritesAreIgnored := by
  intro s d
  have hignored := finishWrite_eq s s.block
  exact ⟨hignored, fun _ => hignored, fun _ => hignored,
    fun a halign hrsvd => reserved_write halign (le_of_reserved hrsvd) d s⟩

/-- Settles O5: the three rows of a CTRL write, and every register write answers OKAY. -/
theorem controlWriteIsSplitByData : Obligations.ControlWriteIsSplitByData := by
  intro d s
  refine ⟨decode_ctrlSrst, fun h0 h1 => decode_ctrlInject h1 h0, fun h0 h1 => decode_ctrlNop h1 h0, fun i hi => ?_⟩
  cases (decode_writeOp .ctrl d).symm.trans hi
  exact ⟨_, exec_writeOp .ctrl d s, State.respond_responses _ _⟩

/-- Settles O7: each row is `finishBusErr`. -/
theorem busErrorRowsAnswerAndChangeNothing : Obligations.BusErrorRowsAnswerAndChangeNothing := by
  intro half a d s
  have hread := finishBusErr_eq s .read
  have hwrite := finishBusErr_eq s (.write d)
  exact ⟨hread, hwrite, hread, hwrite, hread, hwrite, hread, hwrite⟩

/-- Settles O9: each is a register's read. -/
theorem configurationReads : Obligations.ConfigurationReads := by
  refine ⟨fun d s => ?_, exec_readOp .threshold _, exec_readOp .sampleRate _, exec_readOp .log2n _⟩
  rw [BitVec.ofNat_toNat]
  exact ⟨decode_readOp .ctrl d, exec_readOp .ctrl s, decode_readOp .threshold d, exec_readOp .threshold s,
    decode_readOp .sampleRate d, exec_readOp .sampleRate s, decode_readOp .log2n d, exec_readOp .log2n s,
    decode_readOp .injFreq d, exec_readOp .injFreq s, decode_readOp .injAmp d, exec_readOp .injAmp s⟩

/-- Settles O11: each is a register's read, PITCH_BIN packed from two fields. -/
theorem pickerRegisterReads : Obligations.PickerRegisterReads := by
  intro d s
  rw [BitVec.ofNat_toNat, ← pitchBinWord_eq_ofNat]
  exact ⟨decode_readOp .binIndex d, exec_readOp .binIndex s, decode_readOp .pitchFreq d, exec_readOp .pitchFreq s,
    decode_readOp .pitchAmp d, exec_readOp .pitchAmp s, decode_readOp .pitchBin d, exec_readOp .pitchBin s⟩

/-- Settles O12: each is a register's read; TRK_STATE and TRK_AMP show the tracker's state. -/
theorem trackerFaultAndCapsReads : Obligations.TrackerFaultAndCapsReads := by
  intro d s
  have hstate : exec .rdTrkState s = finishRead s s.block.trk.stateWord := exec_readOp .trkState s
  have hamp : exec .rdTrkAmp s = finishRead s s.block.trk.ampWord := exec_readOp .trkAmp s
  refine ⟨decode_readOp .trkState d, decode_readOp .trkAmp d, fun hidle => ?_, fun n a hplaying => ?_,
    decode_readOp .faultMsg d, ?_, decode_readOp .caps d, _, exec_readOp .caps s, capsWord_of_legal⟩
  · rw [hidle] at hstate hamp
    exact ⟨hstate, hamp⟩
  · rw [hplaying] at hstate hamp
    rw [stateWord_playing] at hstate
    exact ⟨hstate, hamp⟩
  · rw [BitVec.ofNat_toNat]
    exact exec_readOp .faultMsg s

/-- Settles O15: none of these registers' writes leaves another block. -/
theorem readOnlyWritesAreIgnored : Obligations.ReadOnlyWritesAreIgnored := fun d s =>
  ⟨decode_writeOp .binIndex d, exec_writeOp .binIndex d s, decode_writeOp .pitchFreq d, exec_writeOp .pitchFreq d s,
    decode_writeOp .pitchAmp d, exec_writeOp .pitchAmp d s, decode_writeOp .pitchBin d, exec_writeOp .pitchBin d s,
    decode_writeOp .trkState d, exec_writeOp .trkState d s, decode_writeOp .trkAmp d, exec_writeOp .trkAmp d s,
    decode_writeOp .faultMsg d, exec_writeOp .faultMsg d s, decode_writeOp .caps d, exec_writeOp .caps d s⟩

/-- Settles O16: D[1:0] = 0 is both command bits 0. -/
theorem controlNopChangesNothing : Obligations.ControlNopChangesNothing := by
  intro d s
  refine ⟨fun hlow => ?_, finishWrite_eq s s.block⟩
  have hbit (k : Nat) (hk : k < 2) : d.getLsbD k = false := by
    have hget := congrArg (BitVec.getLsbD · k) hlow
    simpa [BitVec.getLsbD_extractLsb', hk] using hget
  exact decode_ctrlNop (hbit 1 (by decide)) (hbit 0 (by decide))

/-- Settles O17: what `Block.writeReg` says of the two registers. -/
theorem injectionRegisterWrites : Obligations.InjectionRegisterWrites := fun d s =>
  ⟨decode_writeOp .injFreq d, exec_writeOp .injFreq d s, decode_writeOp .injAmp d, exec_writeOp .injAmp d s⟩

/-- Settles O18: what `Block.writeReg` says of the two registers. -/
theorem thresholdAndRateWrites : Obligations.ThresholdAndRateWrites := fun d s =>
  ⟨decode_writeOp .threshold d, exec_writeOp .threshold d s, decode_writeOp .sampleRate d,
    exec_writeOp .sampleRate d s⟩

/-- Settles O20, by D[1]. -/
theorem statusWriteClearsInjDropOnly : Obligations.StatusWriteClearsInjDropOnly := fun d s =>
  ⟨decode_writeOp .status d,
    fun h => (exec_writeOp .status d s).trans (congrArg (finishWrite s) (if_pos h)),
    fun h => (exec_writeOp .status d s).trans (congrArg (finishWrite s) (if_neg (ne_true_of_eq_false h)))⟩

/-- Settles O21, by the two cases of an injection. -/
theorem injectionPushesOrDrops : Obligations.InjectionPushesOrDrops := fun _ s =>
  ⟨fun h0 h1 => decode_ctrlInject h1 h0,
    fun h => congrArg (finishWrite s) (inject_of_halted_or_full h),
    fun hf hroom => congrArg (finishWrite s) (inject_of_room hf hroom)⟩

end Sys2Proof.Machine
end

section
/-! The value of `binfreq` (spec/41_peak_picker.md R147, R153): lowering the exponent field of a rounded product
by L divides its value by 2^L, and rounding keeps the order. -/

namespace Sys2Proof.Machine

/-- The product of a bin and a rate is an integer `rne32` is written for (log 11). -/
theorem bin_mul_rate_lt (k : BitVec 16) (rate : Word) : k.toNat * rate.toNat < 2 ^ 48 :=
  (Nat.mul_lt_mul'' k.isLt rate.isLt).trans_eq (by norm_num)

theorem binfreq_of_product_zero {k : BitVec 16} {rate : Word} (l : BitVec 5) (h : k.toNat * rate.toNat = 0) :
    binfreq k rate l = plusZero := by
  rw [binfreq, h]; rfl

/-- The pattern of a frequency that is not zero: that of the rounded product, its exponent field lowered by L. -/
theorem binfreq_toNat {k : BitVec 16} {rate : Word} (l : BitVec 5) (h : k.toNat * rate.toNat ≠ 0) :
    (binfreq k rate l).toNat = ((k.toNat * rate.toNat).log2 + 127 - l.toNat) * 2 ^ 23 +
      (rneSignificand (k.toNat * rate.toNat) - 2 ^ 23) := by
  have hpat := rne32_toNat h (bin_mul_rate_lt k rate)
  have hl : l.toNat < 2 ^ 5 := l.isLt
  have hsub : (BitVec.ofNat 32 (l.toNat * 2 ^ 23)).toNat = l.toNat * 2 ^ 23 := by
    rw [BitVec.toNat_ofNat, Nat.mod_eq_of_lt (by omega)]
  have hne : rne32 (k.toNat * rate.toNat) ≠ plusZero := by
    intro h0
    rw [h0, show plusZero.toNat = 0 from rfl] at hpat
    omega
  have hle : BitVec.ofNat 32 (l.toNat * 2 ^ 23) ≤ rne32 (k.toNat * rate.toNat) := by
    rw [BitVec.le_def, hsub, hpat]; omega
  rw [binfreq, scaleDown, if_neg hne, BitVec.toNat_sub_of_le hle, hsub, hpat]
  omega

/-- The value of a frequency that is not zero: the rounded significand, its place lowered by L. -/
theorem F_binfreq {k : BitVec 16} {rate : Word} (l : BitVec 5) (h : k.toNat * rate.toNat ≠ 0) :
    F (binfreq k rate l) = .finite (rneSignificand (k.toNat * rate.toNat) *
      2 ^ ((k.toNat * rate.toNat).log2 + 126 - l.toNat) : Nat) := by
  obtain ⟨hlo, hhi⟩ := rneSignificand_bounds h
  have hlog := log2_le_of_lt (bin_mul_rate_lt k rate)
  have hl : l.toNat < 2 ^ 5 := l.isLt
  have hpat := binfreq_toNat l h
  have hmsb : (binfreq k rate l).msb = false := BitVec.msb_eq_false_iff_two_mul_lt.2 (by omega)
  rw [F_of_nonneg hmsb (by omega), hpat,
    show (k.toNat * rate.toNat).log2 + 127 - l.toNat = (k.toNat * rate.toNat).log2 + 126 - l.toNat + 1 by omega,
    patternUnits_normal _ (by omega), Nat.add_sub_cancel' hlo]

/-- Of two values the upper is at least as near to z only from the half-way point up, the lower only up to it. -/
theorem half_way_of_nearer {u v z : Int} (hvu : v < u) :
    (|u - z| ≤ |v - z| → u + v ≤ 2 * z) ∧ (|v - z| ≤ |u - z| → 2 * z ≤ u + v) := by
  obtain ⟨huz, hu_sign⟩ | ⟨huz, hu_sign⟩ := abs_cases (u - z) <;>
    obtain ⟨hvz, hv_sign⟩ | ⟨hvz, hv_sign⟩ := abs_cases (v - z) <;> omega

/-- Rounding to nearest keeps the order: were the rounded values the other way round, the smaller integer would
be past their half-way point and the larger one not. -/
theorem rne32_mono {x y : Nat} (hxy : x ≤ y) (hy : y < 2 ^ 48) {u v : Int} (hu : F (rne32 x) = .finite u)
    (hv : F (rne32 y) = .finite v) : u ≤ v := by
  obtain rfl | hlt := hxy.eq_or_lt
  · cases hu.symm.trans hv
    exact le_rfl
  obtain ⟨_, hu', -, nearest_x⟩ := roundingIsNearestTiesToEven x (hlt.trans hy)
  obtain ⟨_, hv', -, nearest_y⟩ := roundingIsNearestTiesToEven y hy
  cases hu'.symm.trans hu
  cases hv'.symm.trans hv
  refine not_lt.1 fun hvu => ?_
  have hx_past := (half_way_of_nearer hvu).1 (nearest_x _ _ hv).1
  have hy_before := (half_way_of_nearer hvu).2 (nearest_y _ _ hu).1
  omega

/-- Settles O31: the value of a product that is not zero by `F_binfreq`, and up to 24 bits by `F_rne32_of_lt`. -/
theorem binToHertzScalesExactly : Obligations.BinToHertzScalesExactly := by
  intro k rate l
  have hexact : ∃ u v : Int, F (binfreq k rate l) = .finite u ∧
      F (rne32 (k.toNat * rate.toNat)) = .finite v ∧ u * 2 ^ l.toNat = v := by
    by_cases h : k.toNat * rate.toNat = 0
    · rw [binfreq_of_product_zero l h, h]
      exact ⟨0, 0, F_plusZero, F_plusZero, Int.zero_mul _⟩
    · refine ⟨_, _, F_binfreq l h, F_rne32 h (bin_mul_rate_lt k rate), ?_⟩
      have hl : l.toNat < 2 ^ 5 := l.isLt
      have hpow : 2 ^ ((k.toNat * rate.toNat).log2 + 126 - l.toNat) * 2 ^ l.toNat =
          2 ^ ((k.toNat * rate.toNat).log2 + 126) := by
        rw [← pow_add, Nat.sub_add_cancel (by omega)]
      rw [← hpow, ← mul_assoc]
      push_cast
      rfl
  obtain ⟨u, v, hu, hv, huv⟩ := hexact
  refine ⟨u, v, hu, hv, huv, fun h24 => ?_⟩
  cases (F_rne32_of_lt h24).symm.trans hv
  exact huv

/-- Settles O32: by the exact scaling the order is that of the rounded products. -/
theorem binToHertzIsMonotone : Obligations.BinToHertzIsMonotone := by
  intro k1 k2 rate l hk
  obtain ⟨u1, v1, hu1, hv1, h1, -⟩ := binToHertzScalesExactly k1 rate l
  obtain ⟨u2, v2, hu2, hv2, h2, -⟩ := binToHertzScalesExactly k2 rate l
  have hv : v1 ≤ v2 := rne32_mono (Nat.mul_le_mul_right _ hk) (bin_mul_rate_lt k2 rate) hv1 hv2
  have hu : u1 ≤ u2 := le_of_mul_le_mul_right (h1.trans_le (hv.trans_eq h2.symm)) (by positivity)
  rw [le, hu1, hu2, Value.le, decide_eq_true_iff]
  exact hu

end Sys2Proof.Machine
end

section
/-! One beat of the PICKER (spec/41_peak_picker.md R141 to R150): when it is enabled, what it compares, and what it
leaves inside a frame and at its end. -/

namespace Sys2Proof.Machine

@[simp] theorem frameStart_fault (b : Block) : b.frameStart.fault = b.fault := by
  unfold Block.frameStart; split <;> rfl

/-! ### When a beat is enabled -/

/-- The two cases in which SRC waits (R150). -/
theorem beatEnabled_eq_false_iff (b : Block) :
    b.beatEnabled = false ↔ b.fault = true ∨
      (b.bin ≠ 0 ∧ b.bin.toNat = b.frameSize - 1 ∧ b.fifo.length = b.params.fifoDepth) := by
  rw [← Bool.not_eq_true, beatEnabled_iff, not_and_not_right, ← Bool.not_eq_true, imp_iff_not_or, not_not]

/-- A beat before the last bin needs no room. -/
theorem beatEnabled_inside {b : Block} (hf : b.fault = false) (hend : b.bin.toNat ≠ b.frameSize - 1) :
    b.beatEnabled = true :=
  (beatEnabled_iff b).2 ⟨hf, fun ⟨_, hlast, _⟩ => hend hlast⟩

/-- With room in the FIFO any beat is taken. -/
theorem beatEnabled_of_room {b : Block} (hf : b.fault = false) (hroom : b.fifo.length ≠ b.params.fifoDepth) :
    b.beatEnabled = true :=
  (beatEnabled_iff b).2 ⟨hf, fun ⟨_, _, hfull⟩ => hroom hfull⟩

/-! ### The comparison -/

/-- In the lower half the running maximum is replaced by what is above it and the threshold (R144). -/
theorem consider_lower {b : Block} {m : Word} (h : b.bin.toNat < b.frameSize / 2) :
    b.consider m = { b with
      bestMag := if gt m b.latThr && gt m b.bestMag then m else b.bestMag
      bestBin := if gt m b.latThr && gt m b.bestMag then b.bin else b.bestBin } := by
  obtain ⟨heq, hhalf | hthr | hbest⟩ | ⟨heq, -, hthr, hbest⟩ := consider_cases b m
  · omega
  · simp [heq, hthr]
  · simp [heq, hbest]
  · simp [heq, hthr, hbest]

/-- In the mirror half nothing is compared (R145). -/
theorem consider_mirror {b : Block} (m : Word) (h : b.frameSize / 2 ≤ b.bin.toNat) : b.consider m = b :=
  if_neg fun ⟨hhalf, _⟩ => absurd hhalf (Nat.not_lt.2 h)

/-! ### The whole beat -/

/-- A beat before the last bin only compares and counts. -/
theorem beat_inside {b : Block} (m : Word) (hend : b.bin.toNat ≠ b.frameStart.frameSize - 1) :
    b.beat m = { b.frameStart.consider m with bin := b.bin + 1 } := by
  rw [Block.beat, advance_inside (by simpa using hend), consider_bin, frameStart_bin]

/-- A beat at the last bin compares and ends the frame. -/
theorem beat_at_end {b : Block} (m : Word) (hend : b.bin.toNat = b.frameStart.frameSize - 1) :
    b.beat m = (b.frameStart.consider m).frameEnd :=
  advance_at_end (by simpa using hend)

/-- Past bin 0 the last bin is in the mirror half, where a beat compares nothing and so only ends the frame. -/
theorem beat_at_last_bin {b : Block} (m : Word) (hbin : b.bin ≠ 0) (hend : b.bin.toNat = b.frameSize - 1) :
    b.beat m = b.frameEnd := by
  have hmirror : b.frameSize / 2 ≤ b.bin.toNat := by
    have hpos : b.bin.toNat ≠ 0 := fun h0 => hbin (BitVec.eq_of_toNat_eq h0)
    omega
  rw [beat_at_end m (by rwa [frameStart_of_active hbin]), frameStart_of_active hbin, consider_mirror m hmirror]

/-- The last beat of a frame pushes the Pitch it reads back (R146, R149). -/
theorem frameEnd_fifo_readback (b : Block) :
    b.frameEnd.fifo = b.fifo ++ [⟨b.frameEnd.lastFreq, b.frameEnd.lastAmp⟩] := rfl

/-- A beat of a block that meets its invariant counts inside the frame, or ends it. -/
theorem Block.Inv.beat_counts {b : Block} (h : b.Inv) (m : Word) :
    (b.bin.toNat + 1 < b.frameStart.frameSize ∧ (b.beat m).bin.toNat = b.bin.toNat + 1 ∧
      (b.beat m).fifo = b.fifo) ∨
    (b.bin.toNat + 1 = b.frameStart.frameSize ∧ (b.beat m).bin = 0 ∧ (b.beat m).pvalid = true ∧
      (b.beat m).fifo = b.fifo ++ [⟨(b.beat m).lastFreq, (b.beat m).lastAmp⟩]) := by
  have hin : b.bin.toNat < b.frameStart.frameSize := by simpa using h.frameStart.bin_in_frame
  by_cases hend : b.bin.toNat = b.frameStart.frameSize - 1
  · refine .inr ⟨by omega, beat_bin_at_end m hend, ?_⟩
    rw [beat_at_end m hend]
    exact ⟨rfl, by rw [frameEnd_fifo_readback, consider_fifo, frameStart_fifo]⟩
  · refine .inl ⟨by omega, h.beat_bin_inside m hend, ?_⟩
    rw [beat_inside m hend]
    simp

/-! ### A turn of SRC or TRK -/

/-- SRC's turn with a beat that is enabled. -/
theorem step_spectrum {s : State} {ts : List Turn} {m : Word} {ms : List Word}
    (ht : s.world.turns = .spectrum :: ts) (hi : s.world.srcIn = m :: ms) (he : s.block.beatEnabled = true) :
    step s = .next ⟨s.block.beat m, { s.world with turns := ts, srcIn := ms }⟩ := by
  obtain ⟨run_decoded, -, fetch_spectrum, -⟩ := stepRunsTheDecodedOperation
  rw [run_decoded s _ _ (.sinBeat m) (fetch_spectrum s ts m ms ht hi) rfl he]
  exact exec_sinBeat_of_enabled m he

/-- SRC's turn with a beat that is not: the beat stays with SRC (R150). -/
theorem step_spectrum_waits {s : State} {ts : List Turn} {m : Word} {ms : List Word}
    (ht : s.world.turns = .spectrum :: ts) (hi : s.world.srcIn = m :: ms) (he : s.block.beatEnabled = false) :
    step s = .next s.passTurn := by
  obtain ⟨-, -, fetch_spectrum, -⟩ := stepRunsTheDecodedOperation
  obtain ⟨keep_word, -⟩ := disabledTurnsGoBy
  exact keep_word s _ _ (.sinBeat m) (fetch_spectrum s ts m ms ht hi) rfl he

/-- TRK's turn with a step that is enabled. -/
theorem step_trackStep {s : State} {ts : List Turn} (ht : s.world.turns = .event .trackStep :: ts)
    (he : s.block.trackStepEnabled = true) :
    step s = .next ⟨s.block.trackStep, { s.world with turns := ts }⟩ := by
  obtain ⟨run_decoded, -, -, fetch_event, -⟩ := stepRunsTheDecodedOperation
  rw [run_decoded s _ _ .trackStep (fetch_event s ts .trackStep ht) rfl he]
  exact if_pos he

/-- A step of the tracker pops the head of the FIFO and otherwise changes the tracker's own state only. -/
theorem trackStep_eq_pop {b : Block} {p : Pitch} {rest : List Pitch} (hp : b.fifo = p :: rest) :
    ∃ new trk, b.trackStep = { b with fifo := rest, outq := b.outq ++ new, trk := trk } := by
  obtain ⟨new, trk, heq, -⟩ := react_eq_append { b with fifo := rest } p
  exact ⟨new, trk, (trackStep_eq hp).trans heq⟩

end Sys2Proof.Machine
end

section
/-! The peak of a frame (spec/41_peak_picker.md R144, R148): `IsPeak` grows beat by beat with the running
maximum. -/

namespace Sys2Proof.Machine

/-- A magnitude that is not above another is below it or equal, unless one of them is NaN. -/
theorem ge_of_not_gt {a m : Word} (ha : F a ≠ .nan) (hm : F m ≠ .nan) (h : ¬ gt m a = true) :
    ge a m = true :=
  Value.le_of_not_lt ha hm (Bool.not_eq_true _ ▸ h)

theorem ne_nan_of_gt {a b : Word} (h : gt a b = true) : F a ≠ .nan :=
  (Value.ne_nan_of_lt h).2

variable {ms : List Word} {half k : Nat} {thr a m : Word}

/-- Before any beat the placeholder is the peak (R143). -/
theorem isPeak_nil (half : Nat) (thr : Word) : IsPeak [] half thr 0 plusZero :=
  .inr ⟨rfl, rfl, by simp⟩

/-- The running maximum is not below +0.0. -/
theorem IsPeak.ge_plusZero (h : IsPeak ms half thr k a) : ge a plusZero = true := by
  obtain ⟨-, -, -, hpos, -⟩ | ⟨-, rfl, -⟩ := h
  · exact ge_of_gt hpos
  · exact ge_plusZero_self

/-- The running maximum is not below any magnitude of the lower half that is above the threshold. -/
theorem IsPeak.ge_of_passes (h : IsPeak ms half thr k a) {j : Nat} {x : Word} (hj : j < half)
    (hx : ms[j]? = some x) (hthr : gt x thr = true) : ge a x = true := by
  obtain ⟨-, -, -, -, hmax, -⟩ | ⟨-, rfl, hnone⟩ := h
  · exact hmax j x hj hx hthr
  · exact ge_of_not_gt (by simp [F_plusZero]) (ne_nan_of_gt hthr) fun hpos => hnone j x hj hx ⟨hthr, hpos⟩

/-- A magnitude of the extended list is one of the list or the new one. -/
theorem getElem?_append_singleton_cases {j : Nat} {x : Word} (h : (ms ++ [m])[j]? = some x) :
    ms[j]? = some x ∨ (j = ms.length ∧ x = m) := by
  rw [List.getElem?_append] at h
  split at h
  · exact .inl h
  · obtain ⟨hj, rfl⟩ := List.getElem?_eq_some_iff.1 h
    rw [List.length_singleton] at hj
    exact .inr ⟨by omega, by simp⟩

/-- A beat of the lower half above the threshold and the running maximum is the new peak (R144). -/
theorem IsPeak.append_replaces (h : IsPeak ms half thr k a) (hhalf : ms.length < half)
    (hthr : gt m thr = true) (hgt : gt m a = true) : IsPeak (ms ++ [m]) half thr ms.length m := by
  have hpos : gt m plusZero = true := gt_of_gt_of_ge hgt h.ge_plusZero
  have above : ∀ j x, j < half → ms[j]? = some x → gt x thr = true → gt m x = true :=
    fun j x hj hx hx_thr => gt_of_gt_of_ge hgt (h.ge_of_passes hj hx hx_thr)
  refine .inl ⟨hhalf, by simp, hthr, hpos, fun j x hj hx hx_thr => ?_, fun j x hj hx hx_thr => ?_⟩
  · obtain hx | ⟨-, rfl⟩ := getElem?_append_singleton_cases hx
    · exact ge_of_gt (above j x hj hx hx_thr)
    · exact ge_of_not_gt (ne_nan_of_gt hpos) (ne_nan_of_gt hpos) (by simp [gt_irrefl])
  · rw [List.getElem?_append_left hj] at hx
    exact above j x (hj.trans hhalf) hx hx_thr

/-- Any other beat leaves the peak (R144, R145). -/
theorem IsPeak.append_keeps (h : IsPeak ms half thr k a)
    (hkeep : ¬(ms.length < half ∧ gt m thr = true ∧ gt m a = true)) : IsPeak (ms ++ [m]) half thr k a := by
  obtain ⟨hk, hget, hthr, hpos, hmax, hlowest⟩ | ⟨rfl, rfl, hnone⟩ := h
  · have hlen : k < ms.length := (List.getElem?_eq_some_iff.1 hget).1
    refine .inl ⟨hk, by rwa [List.getElem?_append_left hlen], hthr, hpos, fun j x hj hx hx_thr => ?_,
      fun j x hj hx => ?_⟩
    · obtain hx | ⟨rfl, rfl⟩ := getElem?_append_singleton_cases hx
      · exact hmax j x hj hx hx_thr
      · exact ge_of_not_gt (ne_nan_of_gt hthr) (ne_nan_of_gt hx_thr) fun hgt => hkeep ⟨hj, hx_thr, hgt⟩
    · rw [List.getElem?_append_left (hj.trans hlen)] at hx
      exact hlowest j x hj hx
  · refine .inr ⟨rfl, rfl, fun j x hj hx hpass => ?_⟩
    obtain hx | ⟨rfl, rfl⟩ := getElem?_append_singleton_cases hx
    · exact hnone j x hj hx hpass
    · exact hkeep ⟨hj, hpass⟩

end Sys2Proof.Machine
end

section
/-! A whole frame (spec/41_peak_picker.md R140 to R149), by induction on the beats still to come. -/

namespace Sys2Proof.Machine

/-- The block in a frame that latched b's configuration, after n beats whose selected bin and magnitude are k and
a (R143, R144). -/
def Block.midFrame (b : Block) (k : BitVec 16) (a : Word) (n : Nat) : Block :=
  { b with
    latThr := b.cfgThr, latRate := b.cfgRate, latLog2n := b.cfgLog2n
    bestMag := a, bestBin := k, bin := BitVec.ofNat 16 n }

theorem frameStart_eq_midFrame {b : Block} (h : b.bin = 0) : b.frameStart = b.midFrame 0 plusZero 0 := by
  obtain ⟨⟩ := b
  cases h
  rfl

theorem midFrame_frameSize (b : Block) (k : BitVec 16) (a : Word) (n : Nat) :
    (b.midFrame k a n).frameSize = 2 ^ b.cfgLog2n.toNat := rfl

theorem midFrame_bin_toNat (b : Block) (k : BitVec 16) (a : Word) {n : Nat} (hn : n < 2 ^ 16) :
    (b.midFrame k a n).bin.toNat = n := by
  rw [Block.midFrame, BitVec.toNat_ofNat, Nat.mod_eq_of_lt hn]

theorem midFrame_next (b : Block) (k : BitVec 16) (a : Word) (n : Nat) :
    { b.midFrame k a n with bin := (b.midFrame k a n).bin + 1 } = b.midFrame k a (n + 1) := by
  simp [Block.midFrame, BitVec.ofNat_add]

/-- After the first beat a frame does not start again. -/
theorem frameStart_midFrame (b : Block) (k : BitVec 16) (a : Word) {n : Nat} (hn : n < 2 ^ 16) (h0 : n ≠ 0) :
    (b.midFrame k a n).frameStart = b.midFrame k a n := by
  refine frameStart_of_active fun hbin => h0 ?_
  rw [← midFrame_bin_toNat b k a hn, hbin]
  rfl

/-- The comparison keeps the running maximum the peak of the beats so far. -/
theorem midFrame_consider {b : Block} {k : BitVec 16} {a : Word} {pre : List Word} (m : Word)
    (hn : pre.length < 2 ^ 16)
    (h : IsPeak pre (2 ^ b.cfgLog2n.toNat / 2) b.cfgThr k.toNat a) :
    ∃ k' a', (b.midFrame k a pre.length).consider m = b.midFrame k' a' pre.length ∧
      IsPeak (pre ++ [m]) (2 ^ b.cfgLog2n.toNat / 2) b.cfgThr k'.toNat a' := by
  have hbin := midFrame_bin_toNat b k a hn
  obtain ⟨heq, hkeep⟩ | ⟨heq, hhalf, hthr, hgt⟩ := consider_cases (b.midFrame k a pre.length) m
  · refine ⟨k, a, heq, h.append_keeps fun ⟨hhalf, hthr, hgt⟩ => ?_⟩
    obtain hmirror | hthr' | hgt' := hkeep
    · rw [midFrame_frameSize, hbin] at hmirror; omega
    · exact absurd hthr (ne_true_of_eq_false hthr')
    · exact absurd hgt (ne_true_of_eq_false hgt')
  · refine ⟨_, m, heq, ?_⟩
    rw [hbin, midFrame_frameSize] at hhalf
    rw [hbin]
    exact h.append_replaces hhalf hthr hgt

/-- A beat played in a frame goes on with a running maximum that is the peak of the beats so far. In s the frame
starts with this beat or has started: either way the configuration in force is b's. -/
theorem play_beat_of_frame {b : Block} {s : State} {k : BitVec 16} {a : Word} {pre : List Word} (m : Word)
    (ms : List Word) (hf : b.fault = false) (hroom : b.fifo.length ≠ b.params.fifoDepth)
    (hn : pre.length < 2 ^ 16) (hs : s.block.frameStart = b.midFrame k a pre.length)
    (hpeak : IsPeak pre (2 ^ b.cfgLog2n.toNat / 2) b.cfgThr k.toNat a) :
    ∃ k' a', IsPeak (pre ++ [m]) (2 ^ b.cfgLog2n.toNat / 2) b.cfgThr k'.toNat a' ∧
      s.play (scriptFrame (m :: ms)) =
        (s.withBlock (b.midFrame k' a' pre.length).advance).play (scriptFrame ms) := by
  obtain ⟨k', a', hconsider, hpeak'⟩ := midFrame_consider m hn hpeak
  have hfault : s.block.fault = b.fault := by rw [← frameStart_fault, hs]; rfl
  have hfifo : s.block.fifo = b.fifo := by rw [← frameStart_fifo, hs]; rfl
  have hparams : s.block.params = b.params := by rw [← frameStart_params, hs]; rfl
  have he : s.block.beatEnabled = true :=
    beatEnabled_of_room (hfault.trans hf) (by rwa [hfifo, hparams])
  have hbeat : s.block.beat m = (b.midFrame k' a' pre.length).advance := by
    rw [Block.beat, hs, hconsider]
  refine ⟨k', a', hpeak', ?_⟩
  rw [← hbeat]
  exact State.play_cons rfl he (exec_sinBeat_of_enabled m he)

/-- The rest of a frame: the beats `m :: ms` after those of `pre` end the frame with the peak of all. -/
theorem play_rest_of_frame {b : Block} {s : State} {k : BitVec 16} {a m : Word} {pre ms : List Word}
    (hf : b.fault = false) (hroom : b.fifo.length ≠ b.params.fifoDepth)
    (hsize : 2 ^ b.cfgLog2n.toNat ≤ 2 ^ 16)
    (hs : s.block.frameStart = b.midFrame k a pre.length)
    (hlen : pre.length + (m :: ms).length = 2 ^ b.cfgLog2n.toNat)
    (hpeak : IsPeak pre (2 ^ b.cfgLog2n.toNat / 2) b.cfgThr k.toNat a) :
    ∃ k' a', IsPeak (pre ++ m :: ms) (2 ^ b.cfgLog2n.toNat / 2) b.cfgThr k'.toNat a' ∧
      s.play (scriptFrame (m :: ms)) =
        some (s.withBlock (b.midFrame k' a' (2 ^ b.cfgLog2n.toNat - 1)).frameEnd) := by
  induction ms generalizing s pre k a m with
  | nil =>
    rw [List.length_singleton] at hlen
    have hn : pre.length < 2 ^ 16 := by omega
    obtain ⟨k', a', hpeak', hplay⟩ := play_beat_of_frame m [] hf hroom hn hs hpeak
    have hend : (b.midFrame k' a' pre.length).bin.toNat = (b.midFrame k' a' pre.length).frameSize - 1 := by
      rw [midFrame_bin_toNat b k' a' hn, midFrame_frameSize]; omega
    refine ⟨k', a', hpeak', ?_⟩
    rw [hplay, advance_at_end hend, ← hlen]
    rfl
  | cons m' ms ih =>
    rw [List.length_cons, List.length_cons] at hlen
    have hn : pre.length < 2 ^ 16 := by omega
    obtain ⟨k', a', hpeak', hplay⟩ := play_beat_of_frame m (m' :: ms) hf hroom hn hs hpeak
    have hinside :
        (b.midFrame k' a' pre.length).bin.toNat ≠ (b.midFrame k' a' pre.length).frameSize - 1 := by
      rw [midFrame_bin_toNat b k' a' hn, midFrame_frameSize]; omega
    rw [advance_inside hinside, midFrame_next] at hplay
    have hs' : (s.withBlock (b.midFrame k' a' (pre.length + 1))).block.frameStart =
        b.midFrame k' a' (pre ++ [m]).length := by
      rw [State.withBlock_block, frameStart_midFrame b k' a' (by omega) (by omega), List.length_append,
        List.length_singleton]
    have hlen' : (pre ++ [m]).length + (m' :: ms).length = 2 ^ b.cfgLog2n.toNat := by
      simp only [List.length_append, List.length_cons, List.length_nil]; omega
    obtain ⟨k'', a'', hpeak'', hrest⟩ := ih hs' hlen' hpeak'
    rw [List.append_assoc, List.singleton_append] at hpeak''
    exact ⟨k'', a'', hpeak'', hplay.trans hrest⟩

end Sys2Proof.Machine
end

section
/-! The obligations of spec/41_peak_picker.md about beats and frames. -/

namespace Sys2Proof.Machine

/-- Settles O27: enabled by `beatEnabled_eq_false_iff`, and what a taken beat counts by `Block.Inv.beat_counts`. -/
theorem beatIsTakenExactlyWhenEnabled : Obligations.BeatIsTakenExactlyWhenEnabled := by
  intro m s waits size
  have hwaits : waits ↔ eventEnabled (.sinBeat m) s.block = false := (beatEnabled_eq_false_iff s.block).symm
  refine ⟨hwaits, fun h => exec_of_not_enabled (hwaits.1 h), fun h => ?_⟩
  have he : s.block.beatEnabled = true := Bool.not_eq_false _ ▸ mt hwaits.2 h
  refine ⟨_, exec_sinBeat_of_enabled m he, rfl, rfl, fun hinv => ?_⟩
  rw [show size = s.block.frameStart.frameSize from (frameStart_frameSize s.block).symm]
  exact hinv.beat_counts m

/-- Settles O28: the induction over the beats of the frame starts from the placeholder and no beats. -/
theorem frameYieldsItsLowestLoudestBin : Obligations.FrameYieldsItsLowestLoudestBin := by
  intro s ms hf hbin hp hl hroom hlen
  obtain ⟨hlo, hhi⟩ := frame_bounds hp hl
  obtain ⟨m, ms, rfl⟩ : ∃ m ms', ms = m :: ms' :=
    List.exists_cons_of_ne_nil (List.ne_nil_of_length_pos (by omega))
  obtain ⟨k, a, hpeak, hplay⟩ := play_rest_of_frame (pre := []) hf (Nat.ne_of_lt hroom) hhi
    (frameStart_eq_midFrame hbin) (by simpa using hlen) (isPeak_nil _ _)
  exact ⟨k, a, hpeak, hplay⟩

/-- Settles O57: the beat waits, the tracker's step makes room, and the beat ends its frame. -/
theorem waitingBeatIsTakenAfterAPop : Obligations.WaitingBeatIsTakenAfterAPop := by
  intro s p rest m ms ts hf hq hp hfull hbin hend ht hi
  have step_waits : step s = .next s.passTurn :=
    step_spectrum_waits ht hi ((beatEnabled_eq_false_iff s.block).2 (.inr ⟨hbin, hend, hfull⟩))
  have step_pops : step s.passTurn =
      .next ⟨s.block.trackStep, { s.world with turns := .spectrum :: ts }⟩ :=
    step_trackStep (congrArg List.tail ht) ((trackStepEnabled_iff _).2 ⟨hf, hq, p, rest, hp⟩)
  obtain ⟨hfault, hlast, hsize, hroom, hparams⟩ : s.block.trackStep.fault = false ∧
      s.block.trackStep.bin = s.block.bin ∧ s.block.trackStep.frameSize = s.block.frameSize ∧
      s.block.trackStep.fifo.length + 1 = s.block.params.fifoDepth ∧
      s.block.trackStep.params = s.block.params := by
    obtain ⟨new, trk, heq⟩ := trackStep_eq_pop hp
    rw [heq, ← hfull, hp]
    exact ⟨hf, rfl, rfl, rfl, rfl⟩
  have hbeat : s.block.trackStep.beatEnabled = true := beatEnabled_of_room hfault (by rw [hparams]; omega)
  have step_beats : step ⟨s.block.trackStep, { s.world with turns := .spectrum :: ts }⟩ =
      .next ⟨s.block.trackStep.beat m, { s.world with turns := ts, srcIn := ms }⟩ :=
    step_spectrum rfl hi hbeat
  have hframe : s.block.trackStep.beat m = s.block.trackStep.frameEnd :=
    beat_at_last_bin m (hlast ▸ hbin) (by rw [hlast, hsize]; exact hend)
  refine ⟨⟨_, step_waits, rfl, hi⟩,
    ⟨s.block.trackStep.beat m, { s.world with turns := ts, srcIn := ms }⟩, ?_, rfl, ?_, ?_, rfl⟩
  · rw [run_succ_of_step (M := core) step_waits, run_succ_of_step (M := core) step_pops,
      run_succ_of_step (M := core) step_beats]
    rfl
  · rw [hframe, Block.frameEnd_bin]
  · rw [hframe, Block.frameEnd_fifo, List.length_append, List.length_singleton, hroom]

/-- Settles O24: the first bin is in the lower half of the frame it starts, and not its last. -/
theorem firstBeatLatchesTheConfiguration : Obligations.FirstBeatLatchesTheConfiguration := by
  intro m s hf hbin hl
  have hsize : 2 ≤ s.block.frameStart.frameSize := by
    rw [frameStart_frameSize, if_pos hbin]
    exact Nat.le_self_pow (by omega) 2
  have hbin0 : s.block.frameStart.bin.toNat = 0 := by rw [frameStart_bin, hbin]; rfl
  have hinside : s.block.bin.toNat ≠ s.block.frameStart.frameSize - 1 := by
    rw [← frameStart_bin]; omega
  have he : s.block.beatEnabled = true := (beatEnabled_iff _).2 ⟨hf, fun ⟨hne, _⟩ => hne hbin⟩
  rw [exec_sinBeat_of_enabled m he, beat_inside m hinside, consider_lower (by omega),
    frameStart_at_start hbin]
  simp [hbin, State.withBlock, plusZero]

/-- Settles O25, by the two halves of the frame. -/
theorem innerBeatsCompareInTheLowerHalfOnly : Obligations.InnerBeatsCompareInTheLowerHalfOnly := by
  intro m s hf hbin
  have hstart := frameStart_of_active hbin
  refine ⟨fun hlower => ?_, fun hmirror hend => ?_⟩
  · have hlower' : s.block.bin.toNat < s.block.frameSize / 2 := hlower
    have hend : s.block.bin.toNat ≠ s.block.frameSize - 1 := by omega
    rw [exec_sinBeat_of_enabled m (beatEnabled_inside hf hend), beat_inside m (by rwa [hstart]), hstart,
      consider_lower hlower']
    rfl
  · rw [exec_sinBeat_of_enabled m (beatEnabled_inside hf hend), beat_inside m (by rwa [hstart]), hstart,
      consider_mirror m hmirror]
    rfl

/-- Settles O26: the last bin only ends the frame, and DEAD is the test of R171 written out. -/
theorem lastBeatEmitsThePitch : Obligations.LastBeatEmitsThePitch := by
  intro m s hf hbin hend hroom
  rw [exec_sinBeat_of_enabled m (beatEnabled_of_room hf hroom), beat_at_last_bin m hbin hend, Bool.not_and]
  rfl

end Sys2Proof.Machine
end

section
/-! The tracker's step, the messages and SINK's answers (spec/42_note_tracker.md R171, R177 to R185): the two tests of
a Pitch by value, the five reactions, and the word of a message. -/

namespace Sys2Proof.Machine

/-! ### The two tests of a Pitch -/

theorem ge_iff_of_finite {a b : Word} {v : Int} (hb : F b = .finite v) :
    ge a b = true ↔ F a = .infinite false ∨ ∃ u, F a = .finite u ∧ v ≤ u := by
  rw [ge, hb]
  cases F a <;> simp [Value.le]

theorem gt_iff_of_finite {a b : Word} {v : Int} (hb : F b = .finite v) :
    gt a b = true ↔ F a = .infinite false ∨ ∃ u, F a = .finite u ∧ v < u := by
  rw [gt, hb]
  cases F a <;> simp [Value.lt]

/-- DEAD_LEVEL is 10737418 · 2^-30 (R6). -/
theorem F_deadLevel : F deadLevel = .finite (10737418 * 2 ^ 119) := by decide

theorem dead_eq_false_iff (freq amp : Word) :
    dead freq amp = false ↔ ge amp deadLevel = true ∧ gt freq plusZero = true := by
  simp [dead]

theorem Pitch.dead_eq_true_iff (p : Pitch) :
    p.dead = true ↔ ¬(ge p.amp deadLevel = true ∧ gt p.freq plusZero = true) := by
  rw [← dead_eq_false_iff, Bool.not_eq_false, Pitch.dead]

/-! ### The five reactions, in a block that offers nothing -/

/-- The message emitted is then the only one offered. -/
theorem emit_of_outq_nil {b : Block} (hq : b.outq = []) (m : Midi) : b.emit m = { b with outq := [m] } := by
  rw [Block.emit, hq, List.nil_append]

theorem react_idle_dead {b : Block} {p : Pitch} (ht : b.trk = .idle) (hd : p.dead = true) :
    b.react p = b := by
  simp [Block.react, ht, hd]

theorem react_idle_live {b : Block} {p : Pitch} (hq : b.outq = []) (ht : b.trk = .idle)
    (hd : p.dead = false) :
    b.react p = { b with trk := .playing (note p.freq) p.amp, outq := [noteOnMsg (note p.freq)] } := by
  simp [Block.react, ht, hd, emit_of_outq_nil hq]

theorem react_playing_dead {b : Block} {p : Pitch} {n : BitVec 7} {a : Word} (hq : b.outq = [])
    (ht : b.trk = .playing n a) (hd : p.dead = true) :
    b.react p = { b with trk := .idle, outq := [noteOffMsg n] } := by
  simp [Block.react, ht, hd, emit_of_outq_nil hq]

theorem react_continues {b : Block} {p : Pitch} {n : BitVec 7} {a : Word} (ht : b.trk = .playing n a)
    (hd : p.dead = false) (hn : note p.freq = n) (ha : le p.amp a = true) : b.react p = b := by
  simp [Block.react, ht, hd, hn, ha]

theorem react_retriggers {b : Block} {p : Pitch} {n : BitVec 7} {a : Word} (hq : b.outq = [])
    (ht : b.trk = .playing n a) (hd : p.dead = false) (h : note p.freq ≠ n ∨ le p.amp a = false) :
    b.react p = { b with
      trk := .playing (note p.freq) p.amp, outq := [noteOffMsg n, noteOnMsg (note p.freq)] } := by
  have hnot : ¬(note p.freq = n ∧ le p.amp a = true) := by simpa [imp_iff_not_or] using h
  simp [Block.react, Block.emit, ht, hd, hnot, hq]

theorem exec_trackStep_of_react {s : State} {p : Pitch} {rest : List Pitch} {b : Block}
    (hf : s.block.fault = false) (hq : s.block.outq = []) (hp : s.block.fifo = p :: rest)
    (h : ({ s.block with fifo := rest }).react p = b) : exec .trackStep s = .next (s.withBlock b) :=
  h ▸ exec_trackStep_of_enabled hf hq hp

/-! ### Wire words -/

theorem wireWord_toNat (m : Midi) :
    m.wireWord.toNat = m.statusByte.toNat * 2 ^ 16 + m.noteByte.toNat * 2 ^ 8 + m.velocityByte.toNat := by
  rw [Midi.wireWord, toNat_append_eq_add, toNat_append_eq_add]
  omega

theorem wireWord_eq_ofNat (m : Midi) :
    m.wireWord =
      BitVec.ofNat 24 (m.statusByte.toNat * 2 ^ 16 + m.noteByte.toNat * 2 ^ 8 + m.velocityByte.toNat) := by
  rw [← wireWord_toNat, BitVec.ofNat_toNat, BitVec.setWidth_eq]

/-- The note number stands in the word's middle byte, which is zero in the word of note 0 (R182, R183). -/
theorem wireWord_eq_or (status velocity : Byte) (n : BitVec 7) :
    (Midi.mk status (noteToByte n) velocity).wireWord =
      (status ++ 0#8 ++ velocity) ||| n.setWidth 24 <<< 8 := by
  have hshift : n.setWidth 24 <<< 8 = 0#8 ++ noteToByte n ++ 0#8 := by
    apply BitVec.eq_of_toNat_eq
    have hn := n.isLt
    simp only [noteToByte, toNat_append_eq_add, BitVec.toNat_shiftLeft, BitVec.toNat_setWidth,
      BitVec.toNat_ofNat, Nat.shiftLeft_eq]
    omega
  rw [hshift, BitVec.or_append, BitVec.or_append, BitVec.or_zero, BitVec.zero_or, BitVec.or_zero]
  rfl

/-! ### SINK -/

theorem sinkEnabled_iff_outq_ne_nil (b : Block) :
    b.sinkEnabled = true ↔ b.fault = false ∧ b.outq ≠ [] := by
  rw [sinkEnabled_iff, List.ne_nil_iff_exists_cons]

end Sys2Proof.Machine
end

section
/-! The note number (spec/42_note_tracker.md R172 to R175): the table of boundaries against the real logarithm. -/

namespace Sys2Proof.Machine

/-! ### The semitone scale -/

/-- x(f) of R172 for the frequency of u units of 2^-149. -/
noncomputable def semitones (u : Int) : ℝ := 12 * Real.logb 2 ((u : ℝ) / 2 ^ 149 / 440) + 69

/-- The boundary below note j, b_j = 440 · 2^((j - 69.5) / 12) (R173), compared without roots: f is at least b_j when
(f / 440)^24 is at least 2^(2j - 139). -/
theorem le_semitones_iff {u : Nat} (hu : 0 < u) (j : Nat) :
    (j : ℝ) - 1 / 2 ≤ semitones u ↔ (440 * 2 ^ 149) ^ 24 * 4 ^ j ≤ u ^ 24 * 2 ^ 139 := by
  have hpos : (0 : ℝ) < u := Nat.cast_pos.2 hu
  have hscale : semitones u = 12 * (Real.logb 2 u - Real.logb 2 (440 * 2 ^ 149)) + 69 := by
    rw [semitones, div_div, mul_comm (2 ^ 149) (440 : ℝ), Int.cast_natCast,
      Real.logb_div hpos.ne' (by positivity)]
  have hbound : Real.logb 2 ((440 * 2 ^ 149) ^ 24 * 4 ^ j) = 24 * Real.logb 2 (440 * 2 ^ 149) + 2 * j := by
    rw [Real.logb_mul (by positivity) (by positivity), Real.logb_pow, show (4 : ℝ) = 2 ^ 2 by norm_num, ← pow_mul,
      Real.logb_pow, Real.logb_self_eq_one one_lt_two]
    push_cast
    ring
  have hunits : Real.logb 2 ((u : ℝ) ^ 24 * 2 ^ 139) = 24 * Real.logb 2 u + 139 := by
    rw [Real.logb_mul (by positivity) (by positivity), Real.logb_pow, Real.logb_pow,
      Real.logb_self_eq_one one_lt_two]
    push_cast
    ring
  calc (j : ℝ) - 1 / 2 ≤ semitones u
      ↔ Real.logb 2 ((440 * 2 ^ 149) ^ 24 * 4 ^ j) ≤ Real.logb 2 ((u : ℝ) ^ 24 * 2 ^ 139) := by
        rw [hbound, hunits, hscale]
        generalize Real.logb 2 (440 * 2 ^ 149) = c
        constructor <;> intro h <;> linarith
    _ ↔ ((440 * 2 ^ 149) ^ 24 * 4 ^ j : ℝ) ≤ (u : ℝ) ^ 24 * 2 ^ 139 :=
        Real.logb_le_logb one_lt_two (by positivity) (by positivity)
    _ ↔ (440 * 2 ^ 149) ^ 24 * 4 ^ j ≤ u ^ 24 * 2 ^ 139 := by exact_mod_cast Iff.rfl

/-- x(f) is never half-way between two integers: the root of 2 would be a fraction (R175). -/
theorem semitones_ne_half {u : Int} (hu : 0 < u) (m : Int) : semitones u ≠ m + 1 / 2 := by
  intro h
  have hratio : (0 : ℝ) < (u : ℝ) / 2 ^ 149 / 440 := by
    have hpos : (0 : ℝ) < u := Int.cast_pos.2 hu
    positivity
  have hlog : Real.logb 2 (((u : ℝ) / 2 ^ 149 / 440) ^ 12) = ((m - 69 : Int) : ℝ) + 1 / 2 := by
    rw [Real.logb_pow]
    rw [semitones] at h
    push_cast
    linarith
  have hpow : ((u : ℝ) / 2 ^ 149 / 440) ^ 12 = 2 ^ (m - 69) * √2 := by
    rw [← Real.rpow_logb two_pos (by norm_num) (pow_pos hratio 12), hlog, Real.rpow_add two_pos,
      Real.rpow_intCast, Real.sqrt_eq_rpow]
  refine irrational_sqrt_two ⟨((u : ℚ) / 2 ^ 149 / 440) ^ 12 / 2 ^ (m - 69), ?_⟩
  push_cast
  rw [hpow, mul_div_cancel_left₀ _ (by positivity)]

/-! ### The table of boundaries -/

/-- t is the lowest pattern whose value is above the boundary below note j (R173): the pattern before it is below. -/
def IsBoundary (t : Word) (j : Nat) : Prop :=
  0 < t.toNat ∧ t.toNat < 0x7F800000 ∧
  patternUnits (t.toNat - 1) ^ 24 * 2 ^ 139 < (440 * 2 ^ 149) ^ 24 * 4 ^ j ∧
  (440 * 2 ^ 149) ^ 24 * 4 ^ j < patternUnits t.toNat ^ 24 * 2 ^ 139

theorem noteBounds_isBoundary : ∀ i (h : i < noteBounds.length), IsBoundary noteBounds[i] (i + 1) := by
  unfold IsBoundary
  decide +kernel

theorem IsBoundary.F_eq {t : Word} {j : Nat} (h : IsBoundary t j) : F t = .finite (patternUnits t.toNat) := by
  obtain ⟨-, hlt, -⟩ := h
  exact F_of_nonneg (BitVec.msb_eq_false_iff_two_mul_lt.2 (by omega)) hlt

/-- A frequency reaches T_j exactly when the integer nearest x(f) is at least j: no value lies between T_j and the
pattern before it. -/
theorem IsBoundary.ge_iff {freq t : Word} {j : Nat} {u : Int} (h : IsBoundary t j) (hF : F freq = .finite u)
    (hu : 0 < u) : ge freq t = true ↔ (j : Int) ≤ ⌊semitones u + 1 / 2⌋ := by
  obtain ⟨n, rfl⟩ := Int.eq_ofNat_of_zero_le hu.le
  have hunits : ge freq t = true ↔ patternUnits t.toNat ≤ n := by
    simp [ge_iff_of_finite h.F_eq, hF]
  rw [hunits, Int.le_floor, ← sub_le_iff_le_add, Int.cast_natCast, le_semitones_iff (Int.natCast_pos.1 hu)]
  obtain ⟨hpos, -, hbelow, habove⟩ := h
  constructor
  · intro hle
    exact habove.le.trans (by gcongr)
  · intro hle
    obtain hn | hn := finite_le_or_ge hF (t.toNat - 1)
    · have hn' : n ≤ patternUnits (t.toNat - 1) := Int.ofNat_le.1 hn
      have hlt : n ^ 24 * 2 ^ 139 < n ^ 24 * 2 ^ 139 := calc
        n ^ 24 * 2 ^ 139 ≤ patternUnits (t.toNat - 1) ^ 24 * 2 ^ 139 := by gcongr
        _ < (440 * 2 ^ 149) ^ 24 * 4 ^ j := hbelow
        _ ≤ n ^ 24 * 2 ^ 139 := hle
      exact absurd hlt (lt_irrefl _)
    · rw [Nat.sub_add_cancel hpos] at hn
      exact Int.ofNat_le.1 hn

/-! ### The count -/

/-- Counting the places 1 to l.length that are at most n clamps n (R174). -/
theorem countP_eq_clamp {α : Type} {p : α → Bool} {l : List α} {n : Int}
    (h : ∀ i (hi : i < l.length), p l[i] = true ↔ ((i + 1 : Nat) : Int) ≤ n) :
    (l.countP p : Int) = max 0 (min (l.length : Int) n) := by
  induction l generalizing n with
  | nil => simp
  | cons x xs ih =>
    have htail : (xs.countP p : Int) = max 0 (min (xs.length : Int) (n - 1)) :=
      ih fun i hi => (h (i + 1) (Nat.succ_lt_succ hi)).trans (by omega)
    have hhead : p x = true ↔ 1 ≤ n := h 0 (Nat.succ_pos _)
    rw [List.countP_cons, List.length_cons]
    split_ifs with hx
    · have := hhead.1 hx
      omega
    · have := mt hhead.2 hx
      omega

theorem noteBounds_length : noteBounds.length = 127 := by decide +kernel

theorem note_toNat (freq : Word) : (note freq).toNat = noteBounds.countP fun t => ge freq t := by
  have hle : (noteBounds.countP fun t => ge freq t) ≤ 127 := noteBounds_length ▸ List.countP_le_length
  rw [note, BitVec.toNat_ofNat, Nat.mod_eq_of_lt (Nat.lt_succ_of_le hle)]

/-- The note of a positive finite frequency, halves rounded up. -/
theorem note_eq_clamp_floor {freq : Word} {u : Int} (hF : F freq = .finite u) (hu : 0 < u) :
    ((note freq).toNat : Int) = max 0 (min 127 ⌊semitones u + 1 / 2⌋) := by
  have hcount := countP_eq_clamp fun i hi => (noteBounds_isBoundary i hi).ge_iff hF hu
  rwa [← note_toNat, noteBounds_length] at hcount

theorem note_of_infinite {freq : Word} (hF : F freq = .infinite false) : note freq = 127 := by
  have hall : ∀ t ∈ noteBounds, ge freq t = true := by
    intro t ht
    obtain ⟨i, hi, rfl⟩ := List.getElem_of_mem ht
    exact (ge_iff_of_finite (noteBounds_isBoundary i hi).F_eq).2 (.inl hF)
  apply BitVec.eq_of_toNat_eq
  rw [note_toNat, List.countP_eq_length.2 hall, noteBounds_length]
  rfl

/-- With no half-way value the two roundings of halves agree (R175). -/
theorem ceil_sub_half_eq_floor_add_half {x : ℝ} (h : ∀ m : Int, x ≠ m + 1 / 2) : ⌈x - 1 / 2⌉ = ⌊x + 1 / 2⌋ := by
  have hint : x - 1 / 2 ∉ Set.range ((↑) : Int → ℝ) := by
    rintro ⟨m, hm⟩
    exact h m (by linarith)
  rw [(Int.ceil_eq_floor_add_one_iff_notMem _).2 hint, ← Int.floor_add_one]
  congr 1
  ring

end Sys2Proof.Machine
end

section
/-! The obligations of spec/42_note_tracker.md. -/

namespace Sys2Proof.Machine

/-- Settles O34, by `note_eq_clamp_floor`. -/
theorem noteIsTheNearestSemitone : Obligations.NoteIsTheNearestSemitone := by
  refine ⟨fun freq u hF hu => ?_, fun freq => note_of_infinite, by decide +kernel⟩
  rw [round_eq]
  exact note_eq_clamp_floor hF hu

/-- Settles O35: the root of 2 is no fraction, so there are no halves to round. -/
theorem semitonesNeverTie : Obligations.SemitonesNeverTie := by
  intro freq u hF hu x
  have hfloor : ((note freq).toNat : Int) = max 0 (min 127 ⌊x + 1 / 2⌋) := note_eq_clamp_floor hF hu
  have hhalf : ∀ m : Int, x ≠ m + 1 / 2 := semitones_ne_half hu
  exact ⟨hfloor, ceil_sub_half_eq_floor_add_half hhalf ▸ hfloor, hhalf⟩

/-- Settles O36: the two tests of a Pitch compare with the values of DEAD_LEVEL and of +0.0. -/
theorem livePitchesByValue : Obligations.LivePitchesByValue := by
  intro freq amp
  rw [dead_eq_false_iff, ge_iff_of_finite F_deadLevel, gt_iff_of_finite F_plusZero]

/-- Settles O37, by the two reactions to a dead Pitch. -/
theorem trackStepOnADeadPitch : Obligations.TrackStepOnADeadPitch := by
  intro s p rest hf hq hp htests
  have hd : p.dead = true := p.dead_eq_true_iff.2 htests
  exact ⟨fun ht => exec_trackStep_of_react hf hq hp (react_idle_dead ht hd),
    fun n a ht => exec_trackStep_of_react hf hq hp (react_playing_dead hq ht hd)⟩

/-- Settles O38, by the three reactions to a live Pitch. -/
theorem trackStepOnALivePitch : Obligations.TrackStepOnALivePitch := by
  intro s p rest hf hq hp hamp hfreq
  have hd : p.dead = false := (dead_eq_false_iff p.freq p.amp).2 ⟨hamp, hfreq⟩
  exact ⟨fun ht => exec_trackStep_of_react hf hq hp (react_idle_live hq ht hd),
    fun n a ht hn ha => exec_trackStep_of_react hf hq hp (react_continues ht hd hn ha),
    fun n a ht h => exec_trackStep_of_react hf hq hp (react_retriggers hq ht hd h)⟩

/-- Settles O39, by `wireWord_eq_or`. -/
theorem messagesHaveTheirWireWords : Obligations.MessagesHaveTheirWireWords := fun n =>
  ⟨rfl, wireWord_eq_or 0x90 0x64 n, rfl, wireWord_eq_or 0x80 0x64 n⟩

/-- Settles O41: SinkAccept is one of the ways in which SINK takes the message offered. -/
theorem sinkAcceptDeliversTheHead : Obligations.SinkAcceptDeliversTheHead := by
  refine ⟨sinkEnabled_iff_outq_ne_nil, fun b m rest hq => ?_, fun s m rest hf hq => ?_⟩
  · rw [Block.offered, hq, List.head?_cons]
  · exact exec_of_accepting (.inl rfl) hf hq

/-- Settles O42: the message recorded is the wire word of the head of outq. -/
theorem sinkErrorTakesTheFault : Obligations.SinkErrorTakesTheFault := by
  refine ⟨sinkEnabled_iff_outq_ne_nil, fun s m rest hf hq => ?_⟩
  rw [exec_sinkError_of_enabled hf hq, ← wireWord_eq_ofNat]
  rfl

end Sys2Proof.Machine
end

section
/-! Which state each agent's operations write (spec/60_exceptions.md R215): for HOST, SRC, TRK and SINK what their
operations can do, and what becomes of the fault and of a halted block (R200 to R202). -/

namespace Sys2Proof.Machine

/-! ### HOST -/

/-- A host access is enabled in every state (R100, R101). -/
theorem eventEnabled_of_host {i : Instr} (ha : agentOf i = .host) (b : Block) : eventEnabled i b = true := by
  cases i with
  | sinBeat | trackStep | sinkAccept | sinkError | noteOn | noteOff => cases ha
  | _ => rfl

theorem agentOf_of_accepting {i : Instr} {m : Midi} (hi : accepting i m) : agentOf i = .sink := by
  obtain rfl | ⟨n, rfl, -⟩ | ⟨n, rfl, -⟩ := hi <;> rfl

/-- An injection that is dropped stores INJ_DROP alone; any other pushes its record (R106). -/
theorem inject_stores_or_pushes (b : Block) :
    Stores b b.inject ∨ ∃ p, b.fault = false ∧ b.inject = b.push p := by
  by_cases hdrop : b.fault = true ∨ b.fifo.length = b.params.fifoDepth
  · rw [inject_of_halted_or_full hdrop]
    exact .inl ⟨_, _, _, _, _, true, rfl, .inl rfl⟩
  · obtain ⟨hf, hroom⟩ := not_or.1 hdrop
    have hf := eq_false_of_ne_true hf
    exact .inr ⟨_, hf, inject_of_room hf hroom⟩

/-- What a host access that is no reset does: it stores, or pushes a record in a block that is not halted, and HOST
gets its answer. -/
theorem exec_of_host {i : Instr} {s t : State} (h : exec i s = .next t) (ha : agentOf i = .host)
    (hr : ¬ resets i) :
    ∃ b r, t = (s.withBlock b).respond r ∧
      (Stores s.block b ∨ ∃ p, s.block.fault = false ∧ b = s.block.push p) := by
  cases exec_cases h with
  | waits _ he => simp [eventEnabled_of_host ha] at he
  | answers _ r _ => exact ⟨s.block, r, rfl, .inl ⟨_, _, _, _, _, _, rfl, .inl rfl⟩⟩
  | stores _ b hb _ => exact ⟨b, _, rfl, .inl hb⟩
  | injects => exact ⟨_, _, rfl, inject_stores_or_pushes s.block⟩
  | softResets d => exact absurd (.inr ⟨d, rfl⟩) hr
  | accepts _ _ _ hi => rw [agentOf_of_accepting hi] at ha; cases ha
  | beats | tracks | refuses | hardResets => cases ha

/-! ### SRC -/

/-- The block `b'` is `b` but for the PICKER's fields and the FIFO. -/
def PickerWrites (b b' : Block) : Prop :=
  b' = { b with
    bin := b'.bin, latThr := b'.latThr, latRate := b'.latRate
    latLog2n := b'.latLog2n, bestMag := b'.bestMag, bestBin := b'.bestBin
    lastFreq := b'.lastFreq, lastAmp := b'.lastAmp, lastBin := b'.lastBin
    lastDead := b'.lastDead, pvalid := b'.pvalid, fifo := b'.fifo }

theorem PickerWrites.trans {a b c : Block} (hab : PickerWrites a b) (hbc : PickerWrites b c) :
    PickerWrites a c := by
  rw [PickerWrites] at hab hbc ⊢
  exact hbc.trans (by rw [hab])

theorem PickerWrites.fault_eq {b b' : Block} (h : PickerWrites b b') : b'.fault = b.fault := by
  rw [PickerWrites] at h
  rw [h]

theorem frameStart_pickerWrites (b : Block) : PickerWrites b b.frameStart := by
  by_cases hbin : b.bin = 0
  · rw [frameStart_at_start hbin]; rfl
  · rw [frameStart_of_active hbin]; rfl

theorem consider_pickerWrites (b : Block) (m : Word) : PickerWrites b (b.consider m) := by
  obtain ⟨h, -⟩ | ⟨h, -⟩ := consider_cases b m <;> rw [h] <;> rfl

theorem advance_pickerWrites (b : Block) : PickerWrites b b.advance := by
  by_cases hend : b.bin.toNat = b.frameSize - 1
  · rw [advance_at_end hend]; rfl
  · rw [advance_inside hend]; rfl

theorem beat_pickerWrites (b : Block) (m : Word) : PickerWrites b (b.beat m) :=
  ((frameStart_pickerWrites b).trans (consider_pickerWrites _ m)).trans (advance_pickerWrites _)

/-- SRC waits, or its beat is taken. -/
theorem exec_of_src {i : Instr} {s t : State} (h : exec i s = .next t) (ha : agentOf i = .src) :
    t = s ∨ ∃ m, t = s.withBlock (s.block.beat m) := by
  cases i with
  | sinBeat m =>
    by_cases he : s.block.beatEnabled = true
    · cases (exec_sinBeat_of_enabled m he).symm.trans h
      exact .inr ⟨m, rfl⟩
    · cases (exec_of_not_enabled (i := .sinBeat m) (eq_false_of_ne_true he)).symm.trans h
      exact .inl rfl
  | _ => cases ha

/-! ### TRK -/

/-- TRK waits, or pops a record and reacts to it. -/
theorem exec_of_trk {i : Instr} {s t : State} (h : exec i s = .next t) (ha : agentOf i = .trk) :
    t = s ∨ ∃ p rest, s.block.fifo = p :: rest ∧
      t = s.withBlock (({ s.block with fifo := rest }).react p) := by
  cases i with
  | trackStep =>
    by_cases he : s.block.trackStepEnabled = true
    · obtain ⟨hf, hq, p, rest, hp⟩ := (trackStepEnabled_iff _).1 he
      cases (exec_trackStep_of_enabled hf hq hp).symm.trans h
      exact .inr ⟨p, rest, hp, rfl⟩
    · cases (exec_of_not_enabled (i := .trackStep) (eq_false_of_ne_true he)).symm.trans h
      exact .inl rfl
  | _ => cases ha

/-! ### SINK -/

/-- An operation of SINK that is enabled takes or refuses the message offered. -/
theorem head_of_sink_enabled {i : Instr} {b : Block} (ha : agentOf i = .sink) (he : eventEnabled i b = true) :
    b.fault = false ∧ ∃ m rest, b.outq = m :: rest ∧ (accepting i m ∨ i = .sinkError) := by
  cases i with
  | sinkAccept =>
    obtain ⟨hf, m, rest, hq⟩ := (sinkEnabled_iff b).1 he
    exact ⟨hf, m, rest, hq, .inl (.inl rfl)⟩
  | sinkError =>
    obtain ⟨hf, m, rest, hq⟩ := (sinkEnabled_iff b).1 he
    exact ⟨hf, m, rest, hq, .inr rfl⟩
  | noteOn n =>
    obtain ⟨hf, rest, hq⟩ := (messageEnabled_iff b _).1 he
    exact ⟨hf, _, rest, hq, .inl (.inr (.inl ⟨n, rfl, rfl⟩))⟩
  | noteOff n =>
    obtain ⟨hf, rest, hq⟩ := (messageEnabled_iff b _).1 he
    exact ⟨hf, _, rest, hq, .inl (.inr (.inr ⟨n, rfl, rfl⟩))⟩
  | _ => cases ha

/-- SINK waits, takes the message offered, or refuses it. -/
theorem exec_of_sink {i : Instr} {s t : State} (h : exec i s = .next t) (ha : agentOf i = .sink) :
    t = s ∨ ∃ m rest, s.block.outq = m :: rest ∧
      (t = (s.withBlock { s.block with outq := rest }).deliver m ∨
        t = s.withBlock (s.block.raiseMidiSendError m)) := by
  by_cases he : eventEnabled i s.block = true
  · obtain ⟨hf, m, rest, hq, hi | rfl⟩ := head_of_sink_enabled ha he
    · cases (exec_of_accepting hi hf hq).symm.trans h
      exact .inr ⟨m, rest, hq, .inl rfl⟩
    · cases (exec_sinkError_of_enabled hf hq).symm.trans h
      exact .inr ⟨m, rest, hq, .inr rfl⟩
  · cases (exec_of_not_enabled (eq_false_of_ne_true he)).symm.trans h
    exact .inl rfl

/-! ### The fault and the halt -/

theorem Stores.fault_eq {b b' : Block} (h : Stores b b') : b'.fault = b.fault := by
  obtain ⟨_, _, _, _, _, _, rfl, -⟩ := h
  rfl

@[simp] theorem inject_fault (b : Block) : b.inject.fault = b.fault := by
  obtain h | ⟨-, h⟩ := inject_cases b
  · rw [h]
  · rw [h, Block.push_fault]

@[simp] theorem beat_fault (b : Block) (m : Word) : (b.beat m).fault = b.fault :=
  (beat_pickerWrites b m).fault_eq

@[simp] theorem react_fault (b : Block) (p : Pitch) : (b.react p).fault = b.fault := by
  obtain ⟨new, trk, h, -⟩ := react_eq_append b p
  rw [h]

/-- FAULT stays, is cleared by a reset, or is raised by SinkError with the head of outq (R200, R209). -/
theorem Does.fault_cases {s t : State} {i : Instr} (h : Does s i t) :
    t.block.fault = s.block.fault ∨ (resets i ∧ t.block.fault = false) ∨
    (i = .sinkError ∧ ∃ m rest, s.block.outq = m :: rest ∧
      t = s.withBlock (s.block.raiseMidiSendError m)) := by
  cases h with
  | waits => exact .inl rfl
  | answers => exact .inl rfl
  | stores _ _ hb => exact .inl hb.fault_eq
  | injects => exact .inl (by simp)
  | softResets d => exact .inr (.inl ⟨.inr ⟨d, rfl⟩, rfl⟩)
  | beats => exact .inl (by simp)
  | tracks => exact .inl (by simp)
  | accepts => exact .inl rfl
  | refuses m rest _ hq => exact .inr (.inr ⟨rfl, m, rest, hq, rfl⟩)
  | hardResets => exact .inr (.inl ⟨.inl rfl, rfl⟩)

/-- While the block is halted SRC, TRK and SINK have no enabled event (R202). -/
theorem eventEnabled_eq_false_of_halted {i : Instr} {b : Block} (hf : b.fault = true)
    (ha : agentOf i ≠ .host) (hr : ¬ resets i) : eventEnabled i b = false := by
  cases i with
  | sinBeat => exact (beatEnabled_eq_false_iff b).2 (.inl hf)
  | trackStep => exact trackStepEnabled_eq_false (.inl hf)
  | sinkAccept | sinkError => exact sinkEnabled_eq_false (.inl hf)
  | noteOn | noteOff => exact messageEnabled_eq_false (.inl hf)
  | reset => exact absurd (.inl rfl) hr
  | _ => exact absurd rfl ha

/-- What is left to a halted block's operations but the resets: HOST stores, the others wait. -/
theorem exec_of_halted {i : Instr} {s t : State} (h : exec i s = .next t) (hf : s.block.fault = true)
    (hr : ¬ resets i) :
    (agentOf i = .host ∧ ∃ b r, t = (s.withBlock b).respond r ∧ Stores s.block b) ∨
    (agentOf i ≠ .host ∧ t = s) := by
  by_cases ha : agentOf i = .host
  · obtain ⟨b, r, rfl, hb | ⟨p, hf', -⟩⟩ := exec_of_host h ha hr
    · exact .inl ⟨ha, b, r, rfl, hb⟩
    · simp [hf] at hf'
  · cases (exec_of_not_enabled (eventEnabled_eq_false_of_halted hf ha hr)).symm.trans h
    exact .inr ⟨ha, rfl⟩

end Sys2Proof.Machine
end

section
/-! The obligations of spec/60_exceptions.md. -/

namespace Sys2Proof.Machine

/-- Settles O44: of the ways in which FAULT can change, only the refusal of a message sets it. -/
theorem onlySinkErrorRaisesTheFault : Obligations.OnlySinkErrorRaisesTheFault := by
  intro i s t h hf ht
  obtain hsame | ⟨-, hclear⟩ | ⟨rfl, m, rest, hq, rfl⟩ := (exec_cases h).fault_cases
  · simp [hsame, hf] at ht
  · simp [hclear] at ht
  · exact ⟨rfl, m, rest, hq, rfl, rfl, rfl, rfl, rfl, rfl⟩

/-- Settles O45, by `exec_of_halted`; an injection of a halted block is dropped. -/
theorem onlyResetsLeaveTheHalt : Obligations.OnlyResetsLeaveTheHalt := by
  intro i s t hf h
  have hinject : ∀ d, i = .ctrlInject d → t.block.injDrop = true := by
    rintro d rfl
    cases h
    exact congrArg Block.injDrop (inject_of_halted_or_full (.inl hf))
  refine ⟨fun hr => ?_, fun hr => ?_⟩
  · obtain ⟨hb | hb, -⟩ := exec_of_resets hr h <;> rw [hb] <;> rfl
  · obtain ⟨ha, b, r, rfl, _, _, _, _, _, _, rfl, -⟩ | ⟨-, rfl⟩ := exec_of_halted h hf hr
    · exact ⟨rfl, rfl, absurd ha, hinject⟩
    · exact ⟨rfl, rfl, fun _ => rfl, hinject⟩

/-- Settles O46: one case per agent, by what its operations can do. -/
theorem agentsWriteTheirOwnState : Obligations.AgentsWriteTheirOwnState := by
  intro i s t h hr
  refine ⟨fun ha => ?host, fun ha => ?src, fun ha => ?trk, fun ha => ?sink⟩
  case host =>
    obtain ⟨_, r, rfl, ⟨_, _, _, _, _, _, rfl, -⟩ | ⟨p, -, rfl⟩⟩ := exec_of_host h ha hr
    · exact ⟨rfl, .inl rfl, r, rfl⟩
    · exact ⟨rfl, .inr ⟨p, rfl⟩, r, rfl⟩
  case src =>
    obtain rfl | ⟨m, rfl⟩ := exec_of_src h ha
    · exact ⟨rfl, .inl rfl, rfl⟩
    · exact ⟨beat_pickerWrites s.block m, beat_fifo_cases s.block m, rfl⟩
  case trk =>
    obtain rfl | ⟨p, rest, hp, rfl⟩ := exec_of_trk h ha
    · exact ⟨rfl, .inl rfl, ⟨[], (List.append_nil _).symm⟩, rfl⟩
    · obtain ⟨new, trk, hreact, -⟩ := react_eq_append { s.block with fifo := rest } p
      rw [hreact]
      exact ⟨rfl, .inr ⟨p, hp⟩, ⟨new, rfl⟩, rfl⟩
  case sink =>
    obtain rfl | ⟨m, rest, hq, rfl | rfl⟩ := exec_of_sink h ha
    · exact ⟨rfl, ⟨[], rfl⟩, rfl⟩
    · exact ⟨rfl, ⟨[m], hq⟩, rfl⟩
    · exact ⟨rfl, ⟨s.block.outq, (List.append_nil _).symm⟩, rfl⟩

end Sys2Proof.Machine
end

section
/-! A frame in progress under another configuration (spec/70_reset_and_hazards.md R235): its beats read the latched
copies alone, so they do the same whatever THRESHOLD, SAMPLE_RATE and LOG2N hold. -/

namespace Sys2Proof.Machine

/-- The block with other values in THRESHOLD, SAMPLE_RATE and LOG2N. -/
def Block.withConfig (b : Block) (thr rate : Word) (l : BitVec 5) : Block :=
  { b with cfgThr := thr, cfgRate := rate, cfgLog2n := l }

/-- The comparison is with the latched threshold. -/
theorem consider_withConfig (b : Block) (m thr rate : Word) (l : BitVec 5) :
    (b.withConfig thr rate l).consider m = (b.consider m).withConfig thr rate l := by
  rw [Block.consider, Block.consider, apply_ite (Block.withConfig · thr rate l)]
  rfl

/-- The frame is counted and its Pitch computed with the latched exponent and rate. -/
theorem advance_withConfig (b : Block) (thr rate : Word) (l : BitVec 5) :
    (b.withConfig thr rate l).advance = b.advance.withConfig thr rate l := by
  rw [Block.advance, Block.advance, apply_ite (Block.withConfig · thr rate l)]
  rfl

/-- Inside a frame nothing is latched, so a beat leaves the configuration out of account. -/
theorem beat_withConfig {b : Block} (hbin : b.bin ≠ 0) (m thr rate : Word) (l : BitVec 5) :
    (b.withConfig thr rate l).beat m = (b.beat m).withConfig thr rate l := by
  have hbin' : (b.withConfig thr rate l).bin ≠ 0 := hbin
  rw [Block.beat, Block.beat, frameStart_of_active hbin, frameStart_of_active hbin', consider_withConfig,
    advance_withConfig]

@[simp] theorem advance_frameSize (b : Block) : b.advance.frameSize = b.frameSize := by
  by_cases hend : b.bin.toNat = b.frameSize - 1
  · rw [advance_at_end hend]; rfl
  · rw [advance_inside hend]; rfl

/-- A beat inside a frame keeps its size, and ends the frame or advances the bin counter. -/
theorem beat_of_active {b : Block} (hbin : b.bin ≠ 0) (hsize : b.frameSize ≤ 2 ^ 16)
    (hin : b.bin.toNat < b.frameSize) (m : Word) :
    (b.beat m).frameSize = b.frameSize ∧
      ((b.bin.toNat + 1 = b.frameSize ∧ (b.beat m).bin.toNat = 0) ∨
        (b.beat m).bin.toNat = b.bin.toNat + 1) := by
  have hstart := frameStart_of_active hbin
  refine ⟨by rw [Block.beat, advance_frameSize, consider_frameSize, hstart], ?_⟩
  by_cases hend : b.bin.toNat = b.frameSize - 1
  · exact .inl ⟨by omega, congrArg BitVec.toNat (beat_bin_at_end m (by rwa [hstart]))⟩
  · rw [beat_inside m (by rwa [hstart])]
    exact .inr (BitVec.toNat_add_of_lt (show b.bin.toNat + 1 < 2 ^ 16 by omega))

/-- A frame's next beat, where it is enabled. -/
theorem play_scriptFrame_cons {s : State} {m : Word} (he : s.block.beatEnabled = true) (ms : List Word) :
    s.play (scriptFrame (m :: ms)) = (s.withBlock (s.block.beat m)).play (scriptFrame ms) :=
  State.play_cons rfl he (exec_sinBeat_of_enabled m he)

/-- A frame that names a run begins with an enabled beat. -/
theorem beatEnabled_of_play {s t : State} {m : Word} {ms : List Word}
    (h : s.play (scriptFrame (m :: ms)) = some t) : s.block.beatEnabled = true := by
  obtain ⟨_, _, hdec, he, -⟩ := play_cons_eq_some h
  cases hdec
  exact he

/-- The beats that are left of a frame lead to the same state under another configuration, but for the
configuration itself. -/
theorem play_scriptFrame_withConfig {s t : State} {ms : List Word} (thr rate : Word) (l : BitVec 5)
    (hbin : ms ≠ [] → s.block.bin ≠ 0) (hsize : s.block.frameSize ≤ 2 ^ 16)
    (hlen : s.block.bin.toNat + ms.length ≤ s.block.frameSize) (h : s.play (scriptFrame ms) = some t) :
    (s.withBlock (s.block.withConfig thr rate l)).play (scriptFrame ms) =
      some (t.withBlock (t.block.withConfig thr rate l)) := by
  induction ms generalizing s with
  | nil =>
    cases h
    rfl
  | cons m ms ih =>
    have hactive : s.block.bin ≠ 0 := hbin (List.cons_ne_nil m ms)
    rw [List.length_cons] at hlen
    have he : s.block.beatEnabled = true := beatEnabled_of_play h
    have he' : (s.withBlock (s.block.withConfig thr rate l)).block.beatEnabled = true := he
    rw [play_scriptFrame_cons he] at h
    obtain ⟨hsize', hnext⟩ := beat_of_active hactive hsize (by omega) m
    rw [play_scriptFrame_cons he', State.withBlock_block, beat_withConfig hactive]
    refine ih (s := s.withBlock (s.block.beat m)) (fun hne hzero => ?active) (hsize'.trans_le hsize) ?room h
    case active =>
      have hmore := List.length_pos_iff.2 hne
      have hwrap : (s.block.beat m).bin.toNat = 0 := congrArg BitVec.toNat hzero
      omega
    case room =>
      rw [State.withBlock_block, hsize']
      omega

end Sys2Proof.Machine
end

section
/-! Draining the block (spec/70_reset_and_hazards.md R236): what STATUS shows of it, the events a drained block has
not, and the scripts release and deliver (spec/30_encoding.md R92). -/

namespace Sys2Proof.Machine

/-! ### The drained block -/

theorem playingFlag_eq_false_iff (b : Block) : b.playingFlag = false ↔ b.trk = .idle := by
  cases h : b.trk <;> simp [Block.playingFlag, h]

/-- The four bits of STATUS that say whether the block is drained. -/
theorem drained_iff_statusWord (b : Block) :
    b.drained = true ↔
      b.statusWord.getLsbD 0 = false ∧ b.statusWord.getLsbD 2 = true ∧
      b.statusWord.getLsbD 4 = false ∧ b.statusWord.getLsbD 5 = false := by
  obtain ⟨hfault, -, hempty, -, hplaying, hbusy, -⟩ := statusFlags_bits b
  have hfifo : b.fifoEmptyFlag = true ↔ b.fifo = [] := List.isEmpty_iff
  have hoffer : b.trkBusyFlag = false ↔ b.outq = [] := by
    rw [← Bool.not_eq_true, trkBusyFlag_iff, not_ne_iff]
  simp only [statusWord_getLsbD, Nat.reduceLT, hfault, hempty, hplaying, hbusy, hfifo, hoffer,
    playingFlag_eq_false_iff, drained_iff, and_comm (a := b.outq = [])]

/-- A drained block has no event of TRK or SINK (R245). -/
theorem eventEnabled_eq_false_of_drained {i : Instr} {b : Block} (hdr : b.drained = true)
    (ha : agentOf i = .trk ∨ agentOf i = .sink) : eventEnabled i b = false := by
  obtain ⟨-, hp, hq, -⟩ := (drained_iff b).1 hdr
  cases i with
  | trackStep => exact trackStepEnabled_eq_false (.inr (.inr hp))
  | sinkAccept | sinkError => exact sinkEnabled_eq_false (.inr hq)
  | noteOn | noteOff => exact messageEnabled_eq_false (.inr (by simp [hq]))
  | _ => simp [agentOf] at ha

/-! ### Scripts that write and inject -/

theorem agentOf_writeOp (r : Reg) (d : Word) : agentOf (writeOp d r) = .host := by
  cases r with
  | ctrl =>
    simp only [writeOp]
    split_ifs <;> rfl
  | _ => rfl

/-- A line that writes a register is always enabled and answered OKAY (R91, R101). -/
theorem play_wr (s : State) (r : Reg) (d : Word) (ls : List ScriptLine) :
    s.play (.wr r d :: ls) = ((s.withBlock (s.block.writeReg d r)).respond (.write .okay)).play ls := by
  obtain ⟨hwf, henc⟩ := encode_writeOp r d
  have hdec : decode (scriptWord (.wr r d)) = .ok (writeOp d r) := by
    rw [scriptWord, ← henc]
    exact decodeInvertsEncode _ hwf
  exact State.play_cons hdec (eventEnabled_of_host (agentOf_writeOp r d) _) (exec_writeOp r d s)

/-- The block with f and a in INJ_FREQ and INJ_AMP. -/
def Block.withInjection (b : Block) (f a : Word) : Block := { b with injFreq := f, injAmp := a }

/-- With room in the FIFO `inject` pushes its record (R92, R106). -/
theorem play_scriptInject {s : State} (f a : Word) (hf : s.block.fault = false)
    (hroom : s.block.fifo.length ≠ s.block.params.fifoDepth) :
    ∃ t, s.play (scriptInject f a) = some t ∧ t.block = (s.block.withInjection f a).push ⟨f, a⟩ ∧
      t.world.trace = s.world.trace := by
  have hpush : (s.block.withInjection f a).inject = (s.block.withInjection f a).push ⟨f, a⟩ :=
    inject_of_room hf hroom
  rw [scriptInject, play_wr, play_wr, play_wr]
  exact ⟨_, rfl, hpush, rfl⟩

/-! ### release and deliver -/

/-- A record pushed into an empty FIFO is the one the tracker reacts to. -/
theorem trackStep_push_of_fifo_nil {b : Block} (hp : b.fifo = []) (p : Pitch) :
    (b.push p).trackStep = b.react p := by
  have hpop : { b.push p with fifo := [] } = b := by rw [← hp]; rfl
  rw [trackStep_eq (p := p) (rest := []) (by rw [Block.push_fifo, hp, List.nil_append]), hpop]

/-- To a dead Pitch the tracker reacts by falling Idle and turning off the note that sounds, if one does (R177,
R181). -/
theorem react_dead {b : Block} {p : Pitch} (hq : b.outq = []) (hd : p.dead = true) :
    b.react p = { b with trk := .idle, outq := (b.trk.note.map noteOffMsg).toList } := by
  cases ht : b.trk with
  | idle =>
    have hsame : b = { b with trk := .idle, outq := [] } := by rw [← ht, ← hq]
    exact (react_idle_dead ht hd).trans hsame
  | playing n a => exact react_playing_dead hq ht hd

/-- The Pitch that release injects is dead (R92, R171). -/
theorem release_pitch_dead : (Pitch.mk 0 0).dead = true := by decide

/-- `release` and `deliver` drain a block that holds nothing but a sounding note, and send its NOTE_OFF alone. -/
theorem playItems_release_deliver {s : State} (hf : s.block.fault = false) (hp : s.block.fifo = [])
    (hq : s.block.outq = []) (hdepth : 1 ≤ s.block.params.fifoDepth) :
    ∃ t, s.playItems [.release, .deliver] = some t ∧ t.block.drained = true ∧
      t.world.trace = s.world.trace ++ (s.block.trk.note.map noteOffMsg).toList ∧
      t.block.injDrop = s.block.injDrop := by
  have hroom : s.block.fifo.length ≠ s.block.params.fifoDepth := by rw [hp, List.length_nil]; omega
  obtain ⟨u, hrelease, hu, htrace⟩ := play_scriptInject 0 0 hf hroom
  have he : u.block.trackStepEnabled = true := by
    rw [hu, trackStepEnabled_iff]
    exact ⟨hf, hq, ⟨0, 0⟩, [], congrArg (· ++ [_]) hp⟩
  have hstep : u.block.trackStep = { s.block.withInjection 0 0 with
      trk := .idle, outq := (s.block.trk.note.map noteOffMsg).toList } := by
    rw [hu, trackStep_push_of_fifo_nil (b := s.block.withInjection 0 0) hp]
    exact react_dead hq release_pitch_dead
  have hdeliver := play_scriptDeliver he
  rw [hstep, htrace] at hdeliver
  have hplay : s.playItems [.release, .deliver] = u.playItems [.deliver] := by
    rw [State.playItems_cons, ScriptItem.expand, scriptRelease, hrelease, Option.bind_some]
  obtain ⟨-, hlast⟩ := expand_singleton (i := .deliver) hdeliver
  exact ⟨_, hplay.trans hlast, (drained_iff _).2 ⟨hf, hp, rfl, rfl⟩, rfl, rfl⟩

end Sys2Proof.Machine
end

section
/-! The obligations of spec/70_reset_and_hazards.md. -/

namespace Sys2Proof.Machine

/-- Settles O29, by induction on the beats that are left (`play_scriptFrame_withConfig`). -/
theorem configurationWritesSpareTheFrameInProgress :
    Obligations.ConfigurationWritesSpareTheFrameInProgress := fun _ _ _ thr rate l hbin hexp hlen h =>
  play_scriptFrame_withConfig thr rate l (fun _ => hbin) (Nat.pow_le_pow_right (by decide) hexp) hlen h

/-- Settles O59: the four flags of STATUS, and no enabled event to take. -/
theorem drainedBlocksAreQuiet : Obligations.DrainedBlocksAreQuiet := by
  refine fun s => ⟨drained_iff_statusWord s.block, fun hdr => ?_⟩
  have quiet {i : Instr} (ha : agentOf i = .trk ∨ agentOf i = .sink) : exec i s = .next s :=
    exec_of_not_enabled (eventEnabled_eq_false_of_drained hdr ha)
  exact ⟨quiet (.inl rfl), quiet (.inr rfl), quiet (.inr rfl)⟩

/-- Settles O60: the NOTE_OFF that `playItems_release_deliver` sends is that of the tracker's state. -/
theorem releaseSilencesTheBlock : Obligations.ReleaseSilencesTheBlock := by
  intro s hf hp hq hdepth
  obtain ⟨t, hplay, hdrained, htrace, hdrop⟩ := playItems_release_deliver hf hp hq hdepth
  refine ⟨fun n a ht => ⟨t, hplay, hdrained, ?_, hdrop⟩, fun ht => ⟨t, hplay, hdrained, ?_, hdrop⟩⟩
  · rw [ht] at htrace
    exact htrace
  · rw [htrace, ht]
    exact List.append_nil _

end Sys2Proof.Machine
end
